-- ==== Sys2Proof/Word.lean ====
section
/-! DEFINITION. The plain types of the SSBC: bytes, slot numbers, state codes, and the small name sets
that operands range over (spec/30_encoding.md R92, spec/60_exceptions.md R242–R244). -/

namespace Sys2Proof

/-- One 8-bit register or operation word (R63, R80). -/
abbrev Byte := BitVec 8

/-- A slot index `k`: the 1-bit name of responder node `R_k` (R91, R234). -/
abbrev Slot := BitVec 1

/-- The 5-bit code held by an FSM state register (R21, R80). -/
abbrev Code := BitVec 5

/-- The input pin an `EV.PIN` event moves (R92, R242). -/
inductive Pin where
  | inc
  | dec
deriving DecidableEq, Repr, Inhabited

/-- A node: the controller `C` or the responder `R_k` (R2, R234). -/
inductive Node where
  | c
  | r (k : Slot)
deriving DecidableEq, Repr, Inhabited

/-- An FSM by the state register that holds its state (R21): `FS_STATE`, `CS_STATE`, `P_STATE` and `S_STATE` of `C`,
`R_STATE` of `R_k`. -/
inductive Fsm where
  | fseq
  | csmux
  | poll
  | sampler
  | resp (k : Slot)
deriving DecidableEq, Repr, Inhabited

/-- The node an FSM stands in (R2). -/
def Fsm.node : Fsm → Node
  | .fseq | .csmux | .poll | .sampler => .c
  | .resp k => .r k

/-- The unit whose counted delay `EV.DELIVER` ends (R244). -/
inductive DelayUnit where
  | csmux
  | poll
deriving DecidableEq, Repr, Inhabited

/-- The variant of a responder (R8, R180). -/
inductive Variant where
  | counterDisplay
  | pwm
deriving DecidableEq, Repr, Inhabited

/-- The two treatments of time that the spec gives a model (R11, R265). -/
inductive TimeModel where
  | tickAccurate
  | timeAbstract
deriving DecidableEq, Repr, Inhabited

/-- The unit of an operation word, its field `w[7:5]` (R81). -/
inductive OpUnit where
  | fseq
  | rshift
  | csmux
  | poll
  | resp
  | sampler
  | event
deriving DecidableEq, Repr, Inhabited

/-- What an operation word names (R82, R88, R89): an FSM state, a step without a state register, an
action that a state rule invokes, or an input from the environment. -/
inductive OpKind where
  | state
  | step
  | action
  | event
deriving DecidableEq, Repr, Inhabited

end Sys2Proof
end

