-- ==== Sys2Proof/Syntax.lean ====
section
/-! DEFINITION. The operations of the SSBC: one constructor per row of spec/opcode_table.json
(spec/30_encoding.md R83–R89), and the payload that stands beside an operation word (R92). -/

namespace Sys2Proof

/-- One operation of the SSBC. `k` of a responder operation is the slot of the node `R_k` the word is run
in; data operands are what the invoking state rule passes (R92); event operands are the event's payload. -/
inductive Instr where
  -- FSEQ (R83)
  | fsIdle
  | fsDrive
  | fsSample
  | fsComplete
  | fsBufw (v : Byte)
  | fsBufr
  -- RSHIFT (R88)
  | rsShift (k : Slot) (bit : Bool)
  | rsCsedge (k : Slot)
  | rsComplete (k : Slot)
  | rsBufr (k : Slot)
  | rsBufw (k : Slot) (v : Byte)
  | rsIrqclr (k : Slot) (m : Byte)
  -- CSMUX (R84)
  | csStable
  | csSettling
  | csAssert (k : Slot)
  | csDeassert (k : Slot)
  | csRead
  -- POLL (R85)
  | pollGuard
  | pollSample
  | pollExcl
  | pollSelect
  | pollTxdata
  | pollWaitdata
  | pollDeselect
  | pollSettle
  | pollReselect
  | pollTxsent
  | pollWaitreply
  | pollReceive
  | pollDisplay
  | pollNext
  | pollSkip
  -- RESP (R86)
  | respIdle (k : Slot)
  | respService (k : Slot)
  | respHEdge (k : Slot)
  | respHRxDisplay (k : Slot)
  | respHRxPwm (k : Slot)
  | respLinmap (k : Slot) (x : Byte)
  | respPwmsplit (k : Slot) (d : BitVec 10)
  | respPindet (k : Slot)
  -- SAMPLER (R87)
  | smpIdle
  | smpIsr
  | smpStart
  -- EVENT (R89)
  | evReset
  | evAdcDone (ch : BitVec 4) (res : Byte)
  | evPin (k : Slot) (pin : Pin) (level : Bool)
  | evTick (node : Node)
  | evDeliver (delay : Option DelayUnit)
deriving DecidableEq, Repr, Inhabited

/-- The typed operands that stand beside an operation word and are not bits of it (R89, R92). Each field
is read only by the words that have that operand. -/
structure Payload where
  /-- the slot of the responder node a responder word or `EV.PIN` concerns -/
  k     : Slot
  /-- the bit on `mosi`, of `RS.SHIFT` -/
  bit   : Bool
  /-- the byte operand: `v` of the buffer writes, `m` of `RS.IRQCLR`, `x` of `RESP.LINMAP` -/
  v     : Byte
  /-- the 10-bit duty, of `RESP.PWMSPLIT` -/
  d     : BitVec 10
  /-- `ch` of `EV.ADC_DONE` -/
  ch    : BitVec 4
  /-- `res` of `EV.ADC_DONE` -/
  res   : Byte
  /-- `pin` of `EV.PIN` -/
  pin   : Pin
  /-- `level` of `EV.PIN` -/
  level : Bool
  /-- `node` of `EV.TICK` -/
  node  : Node
  /-- `unit` of `EV.DELIVER` (R244), or `none` for the event without an operand (R89): notes/assumptions/19.md -/
  delay : Option DelayUnit
deriving DecidableEq, Repr, Inhabited

/-- The payload of a word that has none: every field zero, or the first name of its set. -/
def Payload.zero : Payload :=
  { k := 0#1, bit := false, v := 0#8, d := 0#10, ch := 0#4, res := 0#8, pin := .inc, level := false,
    node := .c, delay := none }

end Sys2Proof
end

