-- ==== Sys2Proof/Config.lean ====
section
/-! DEFINITION. The configuration record of the SSBC (spec/00_scope.md R8), its validity checks
(spec/70_reset_and_hazards.md R253), the default configurations (spec/92_eei_decisions.md D2, D3), and the
free values: what the spec leaves to a draw (R10). -/

namespace Sys2Proof

/-- The parameters of one slot `k` (R8). `cpol` and `cpha` are the responder's own copy of the bus mode, which
R253 requires to equal the controller's. -/
structure SlotConfig where
  variant   : Variant
  polled    : Bool
  display   : Bool
  outMin    : Nat
  outMax    : Nat
  pwmPeriod : Byte
  edgeEn    : BitVec 2
  cpol      : Bool
  cpha      : Bool
deriving DecidableEq, Repr, Inhabited

/-- The configuration record: fixed before reset, never changed by a step (R8, R20). -/
structure Config where
  nResp             : Nat
  slot0             : SlotConfig
  slot1             : SlotConfig
  fClk              : Nat
  halfBitTicks      : Nat
  settleTicks       : Nat
  adcGuardTicks     : Nat
  sentinel          : Byte
  cpol              : Bool
  cpha              : Bool
  counterSeed       : Byte
  inMin             : Nat
  inMax             : Nat
  adcCh             : BitVec 4
  expectedCh        : BitVec 4
  stallOnUnselected : Bool
  /-- which of the two treatments of time the model follows (R11, R265) -/
  time              : TimeModel
deriving DecidableEq, Repr, Inhabited

namespace Config

/-- The parameters of slot `k`. -/
def slot (cfg : Config) (k : Slot) : SlotConfig :=
  if k = 0#1 then cfg.slot0 else cfg.slot1

/-- Slot `k` exists: `k < N_RESP` (R90, R91). -/
def hasSlot (cfg : Config) (k : Slot) : Bool := decide (k.toNat < cfg.nResp)

/-- The checks of R253 on one slot. -/
def slotValid (cfg : Config) (c : SlotConfig) : Bool :=
  c.cpol == cfg.cpol && c.cpha == cfg.cpha && decide (c.outMin ≤ 1023) && decide (c.outMax ≤ 1023)

/-- The configuration checks of R253; a configuration that fails one has no run. -/
def valid (cfg : Config) : Bool :=
  (cfg.nResp == 1 || cfg.nResp == 2)
    && decide (1 ≤ cfg.halfBitTicks)
    && decide (2 * cfg.halfBitTicks ≤ cfg.settleTicks)
    && cfg.slotValid cfg.slot0
    && (cfg.nResp == 1 || cfg.slotValid cfg.slot1)
    && cfg.inMin == 0 && cfg.inMax == 255

/-- The tick parameters fit the counters that count them down: `DIVCNT_C` 16 bits, `SETTLE_CNT` and `GUARD_CNT`
32 bits (R24–R26, R233). Asked of a tick model alone. DEDUCED from the widths, notes/assumptions/5.md. -/
def fits (cfg : Config) : Bool :=
  decide (cfg.halfBitTicks ≤ 65536) && decide (cfg.settleTicks < 4294967296)
    && decide (cfg.adcGuardTicks < 4294967296)

/-- A configuration the model has a run for: one that passes the checks of R253, and in a tick model fits its counters. A
time-abstract model counts nothing (R50, R265), so there R253 is the whole of it. -/
def ok (cfg : Config) : Bool := cfg.valid && (cfg.time == .timeAbstract || cfg.fits)

/-- The default of `SETTLE_TICKS`: `ceil(10 ms × F_CLK)`, `F_CLK` in Hz (R8, D12). -/
def settleOf (fClk : Nat) : Nat := (10 * fClk + 999) / 1000

/-- A polled and displayed counter responder with the defaults of R8. -/
def counterSlot : SlotConfig :=
  { variant := .counterDisplay, polled := true, display := true, outMin := 62, outMax := 125,
    pwmPeriod := 255#8, edgeEn := 0b11#2, cpol := false, cpha := false }

/-- An unpolled PWM responder with the defaults of R8. -/
def pwmSlot : SlotConfig :=
  { variant := .pwm, polled := false, display := false, outMin := 62, outMax := 125,
    pwmPeriod := 255#8, edgeEn := 0b11#2, cpol := false, cpha := false }

/-- The default two-responder configuration: slot 0 `PWM`, slot 1 `COUNTER_DISPLAY` (R8, D3). The OPEN
parameters carry the values of notes/assumptions/2.md (DESIGN CHOICE). -/
def twoResponders : Config :=
  { nResp := 2, slot0 := pwmSlot, slot1 := counterSlot, fClk := 1000000, halfBitTicks := 2,
    settleTicks := settleOf 1000000, adcGuardTicks := 2, sentinel := 0xFF#8, cpol := false, cpha := false,
    counterSeed := 5#8, inMin := 0, inMax := 255, adcCh := 0#4, expectedCh := 0#4,
    stallOnUnselected := true, time := .timeAbstract }

/-- The default one-responder configuration: slot 0 `COUNTER_DISPLAY` (R8, D3). -/
def oneResponder : Config := { twoResponders with nResp := 1, slot0 := counterSlot }

/-- FREE VALUE: the `n`-th drawn bit (R10 `draw bit`): a sampled `miso` that the spec leaves open (R36,
R103), the stall choice of R106, the service latency of RESP in a tick (R265), which delay an `EV.DELIVER`
without an operand ends (notes/assumptions/19.md). Nothing constrains it. -/
opaque freeBit : Nat → Bool

/-- FREE VALUE: the `n`-th drawn byte (R10 `draw byte`): the contents of a draw-valued register after
`EV.RESET` (R250, R252). Nothing constrains it. -/
opaque freeByte : Nat → Byte

/-- FREE VALUE: the move the environment and the interleaving take when no operation is pending (R12, R223,
R265 (b)). Nothing constrains it. -/
opaque freeMove : Nat → Instr

end Config
end Sys2Proof
end

