-- ==== Sys2Proof/WellFormed.lean ====
section
/-! DEFINITION. Which operations exist under a configuration: the slot an operation names must be a slot of the
machine, `k < N_RESP` (spec/30_encoding.md R90, R91). Every other operand is bounded by its type (R92). -/

namespace Sys2Proof

/-- The responder slot an operation names, if it names one. -/
def Instr.slot? : Instr → Option Slot
  | .fsIdle => none
  | .fsDrive => none
  | .fsSample => none
  | .fsComplete => none
  | .fsBufw _ => none
  | .fsBufr => none
  | .rsShift k _ => some k
  | .rsCsedge k => some k
  | .rsComplete k => some k
  | .rsBufr k => some k
  | .rsBufw k _ => some k
  | .rsIrqclr k _ => some k
  | .csStable => none
  | .csSettling => none
  | .csAssert k => some k
  | .csDeassert k => some k
  | .csRead => none
  | .pollGuard => none
  | .pollSample => none
  | .pollExcl => none
  | .pollSelect => none
  | .pollTxdata => none
  | .pollWaitdata => none
  | .pollDeselect => none
  | .pollSettle => none
  | .pollReselect => none
  | .pollTxsent => none
  | .pollWaitreply => none
  | .pollReceive => none
  | .pollDisplay => none
  | .pollNext => none
  | .pollSkip => none
  | .respIdle k => some k
  | .respService k => some k
  | .respHEdge k => some k
  | .respHRxDisplay k => some k
  | .respHRxPwm k => some k
  | .respLinmap k _ => some k
  | .respPwmsplit k _ => some k
  | .respPindet k => some k
  | .smpIdle => none
  | .smpIsr => none
  | .smpStart => none
  | .evReset => none
  | .evAdcDone _ _ => none
  | .evPin k _ _ => some k
  | .evTick (.r k) => some k
  | .evTick .c => none
  | .evDeliver _ => none

/-- The operation is one of the machine `cfg` describes: the slot it names exists (R90, R91). -/
def Instr.wellFormed (cfg : Config) (i : Instr) : Bool :=
  match i.slot? with
  | some k => cfg.hasSlot k
  | none => true

end Sys2Proof
end

