-- ==== Sys2Proof/Decode.lean ====
section
/-! DEFINITION. Decoding an operation word and its payload into an operation, total on all 256 words
(spec/30_encoding.md R80–R93), and the encoder beside it. A word that no row of R83–R89 matches is reserved and
is refused (R90). Whether slot `k` exists depends on the configuration and is `Instr.wellFormed`. -/

namespace Sys2Proof

/-- The unit field `w[7:5]` (R80). -/
def unitField (w : Byte) : BitVec 3 := w.extractLsb' 5 3

/-- The code field `w[4:0]` (R80). -/
def codeField (w : Byte) : Code := w.extractLsb' 0 5

/-- FSEQ words (R83). -/
def decodeFseq (code : Code) (p : Payload) : Option Instr :=
  if code = 0x00#5 then some .fsIdle
  else if code = 0x01#5 then some .fsDrive
  else if code = 0x02#5 then some .fsSample
  else if code = 0x03#5 then some .fsComplete
  else if code = 0x08#5 then some (.fsBufw p.v)
  else if code = 0x09#5 then some .fsBufr
  else none

/-- RSHIFT words (R88). -/
def decodeRshift (code : Code) (p : Payload) : Option Instr :=
  if code = 0x00#5 then some (.rsShift p.k p.bit)
  else if code = 0x01#5 then some (.rsCsedge p.k)
  else if code = 0x02#5 then some (.rsComplete p.k)
  else if code = 0x08#5 then some (.rsBufr p.k)
  else if code = 0x09#5 then some (.rsBufw p.k p.v)
  else if code = 0x0A#5 then some (.rsIrqclr p.k p.v)
  else none

/-- CSMUX words (R84). `CS.ASSERT` and `CS.DEASSERT` match under mask 0xFE, their slot is `w[0]` (R91, R93). -/
def decodeCsmux (code : Code) : Option Instr :=
  if code = 0x00#5 then some .csStable
  else if code = 0x01#5 then some .csSettling
  else if code &&& 0x1E#5 = 0x08#5 then some (.csAssert (code.extractLsb' 0 1))
  else if code &&& 0x1E#5 = 0x0C#5 then some (.csDeassert (code.extractLsb' 0 1))
  else if code = 0x10#5 then some .csRead
  else none

/-- POLL words (R85); code 0x0F and above are reserved. -/
def decodePoll (code : Code) : Option Instr :=
  if code = 0x00#5 then some .pollGuard
  else if code = 0x01#5 then some .pollSample
  else if code = 0x02#5 then some .pollExcl
  else if code = 0x03#5 then some .pollSelect
  else if code = 0x04#5 then some .pollTxdata
  else if code = 0x05#5 then some .pollWaitdata
  else if code = 0x06#5 then some .pollDeselect
  else if code = 0x07#5 then some .pollSettle
  else if code = 0x08#5 then some .pollReselect
  else if code = 0x09#5 then some .pollTxsent
  else if code = 0x0A#5 then some .pollWaitreply
  else if code = 0x0B#5 then some .pollReceive
  else if code = 0x0C#5 then some .pollDisplay
  else if code = 0x0D#5 then some .pollNext
  else if code = 0x0E#5 then some .pollSkip
  else none

/-- RESP words (R86). -/
def decodeResp (code : Code) (p : Payload) : Option Instr :=
  if code = 0x00#5 then some (.respIdle p.k)
  else if code = 0x01#5 then some (.respService p.k)
  else if code = 0x08#5 then some (.respHEdge p.k)
  else if code = 0x09#5 then some (.respHRxDisplay p.k)
  else if code = 0x0A#5 then some (.respHRxPwm p.k)
  else if code = 0x10#5 then some (.respLinmap p.k p.v)
  else if code = 0x11#5 then some (.respPwmsplit p.k p.d)
  else if code = 0x18#5 then some (.respPindet p.k)
  else none

/-- SAMPLER words (R87). -/
def decodeSampler (code : Code) : Option Instr :=
  if code = 0x00#5 then some .smpIdle
  else if code = 0x08#5 then some .smpIsr
  else if code = 0x09#5 then some .smpStart
  else none

/-- EVENT words (R89). `EV.DELIVER` has both forms: without an operand, as R89's table lists it, and with the operand `unit`
that R244 gives it (and R132, R151 use): DEDUCED, notes/assumptions/19.md. -/
def decodeEvent (code : Code) (p : Payload) : Option Instr :=
  if code = 0x00#5 then some .evReset
  else if code = 0x01#5 then some (.evAdcDone p.ch p.res)
  else if code = 0x02#5 then some (.evPin p.k p.pin p.level)
  else if code = 0x03#5 then some (.evTick p.node)
  else if code = 0x04#5 then some (.evDeliver p.delay)
  else none

/-- Decoding a word and its payload (R93). `none`: the word is reserved (R90); unit 0b111 is reserved whole. -/
def decode (w : Byte) (p : Payload) : Option Instr :=
  if unitField w = 0b000#3 then decodeFseq (codeField w) p
  else if unitField w = 0b001#3 then decodeRshift (codeField w) p
  else if unitField w = 0b010#3 then decodeCsmux (codeField w)
  else if unitField w = 0b011#3 then decodePoll (codeField w)
  else if unitField w = 0b100#3 then decodeResp (codeField w) p
  else if unitField w = 0b101#3 then decodeSampler (codeField w)
  else if unitField w = 0b110#3 then decodeEvent (codeField w) p
  else none

/-- The unit whose word an operation is (R81). -/
def Instr.unit : Instr → OpUnit
  | .fsIdle | .fsDrive | .fsSample | .fsComplete | .fsBufw _ | .fsBufr => .fseq
  | .rsShift _ _ | .rsCsedge _ | .rsComplete _ | .rsBufr _ | .rsBufw _ _ | .rsIrqclr _ _ => .rshift
  | .csStable | .csSettling | .csAssert _ | .csDeassert _ | .csRead => .csmux
  | .pollGuard | .pollSample | .pollExcl | .pollSelect | .pollTxdata | .pollWaitdata | .pollDeselect
  | .pollSettle | .pollReselect | .pollTxsent | .pollWaitreply | .pollReceive | .pollDisplay | .pollNext
  | .pollSkip => .poll
  | .respIdle _ | .respService _ | .respHEdge _ | .respHRxDisplay _ | .respHRxPwm _ | .respLinmap _ _
  | .respPwmsplit _ _ | .respPindet _ => .resp
  | .smpIdle | .smpIsr | .smpStart => .sampler
  | .evReset | .evAdcDone _ _ | .evPin _ _ _ | .evTick _ | .evDeliver _ => .event

/-- The unit field a unit has (R81). -/
def OpUnit.field : OpUnit → BitVec 3
  | .fseq => 0b000#3
  | .rshift => 0b001#3
  | .csmux => 0b010#3
  | .poll => 0b011#3
  | .resp => 0b100#3
  | .sampler => 0b101#3
  | .event => 0b110#3

/-- What the word of an operation names (R82, R88, R89; the "kind" column of the tables). -/
def Instr.kind : Instr → OpKind
  | .fsIdle | .fsDrive | .fsSample | .fsComplete => .state
  | .fsBufw _ | .fsBufr => .action
  | .rsShift _ _ | .rsCsedge _ | .rsComplete _ => .step
  | .rsBufr _ | .rsBufw _ _ | .rsIrqclr _ _ => .action
  | .csStable | .csSettling => .state
  | .csAssert _ | .csDeassert _ | .csRead => .action
  | .pollGuard | .pollSample | .pollExcl | .pollSelect | .pollTxdata | .pollWaitdata | .pollDeselect
  | .pollSettle | .pollReselect | .pollTxsent | .pollWaitreply | .pollReceive | .pollDisplay | .pollNext
  | .pollSkip => .state
  | .respIdle _ | .respService _ => .state
  | .respHEdge _ | .respHRxDisplay _ | .respHRxPwm _ | .respLinmap _ _ | .respPwmsplit _ _
  | .respPindet _ => .action
  | .smpIdle => .state
  | .smpIsr | .smpStart => .action
  | .evReset | .evAdcDone _ _ | .evPin _ _ _ | .evTick _ | .evDeliver _ => .event

/-- The operation word of an operation (R83–R89; `CS.ASSERT k` is `0x48 | k`, `CS.DEASSERT k` is `0x4C | k`, R91). -/
def encodeWord : Instr → Byte
  | .fsIdle => 0x00#8
  | .fsDrive => 0x01#8
  | .fsSample => 0x02#8
  | .fsComplete => 0x03#8
  | .fsBufw _ => 0x08#8
  | .fsBufr => 0x09#8
  | .rsShift _ _ => 0x20#8
  | .rsCsedge _ => 0x21#8
  | .rsComplete _ => 0x22#8
  | .rsBufr _ => 0x28#8
  | .rsBufw _ _ => 0x29#8
  | .rsIrqclr _ _ => 0x2A#8
  | .csStable => 0x40#8
  | .csSettling => 0x41#8
  | .csAssert k => 0x48#8 ||| k.setWidth 8
  | .csDeassert k => 0x4C#8 ||| k.setWidth 8
  | .csRead => 0x50#8
  | .pollGuard => 0x60#8
  | .pollSample => 0x61#8
  | .pollExcl => 0x62#8
  | .pollSelect => 0x63#8
  | .pollTxdata => 0x64#8
  | .pollWaitdata => 0x65#8
  | .pollDeselect => 0x66#8
  | .pollSettle => 0x67#8
  | .pollReselect => 0x68#8
  | .pollTxsent => 0x69#8
  | .pollWaitreply => 0x6A#8
  | .pollReceive => 0x6B#8
  | .pollDisplay => 0x6C#8
  | .pollNext => 0x6D#8
  | .pollSkip => 0x6E#8
  | .respIdle _ => 0x80#8
  | .respService _ => 0x81#8
  | .respHEdge _ => 0x88#8
  | .respHRxDisplay _ => 0x89#8
  | .respHRxPwm _ => 0x8A#8
  | .respLinmap _ _ => 0x90#8
  | .respPwmsplit _ _ => 0x91#8
  | .respPindet _ => 0x98#8
  | .smpIdle => 0xA0#8
  | .smpIsr => 0xA8#8
  | .smpStart => 0xA9#8
  | .evReset => 0xC0#8
  | .evAdcDone _ _ => 0xC1#8
  | .evPin _ _ _ => 0xC2#8
  | .evTick _ => 0xC3#8
  | .evDeliver _ => 0xC4#8

/-- The payload of an operation: its operands that are not bits of the word (R92). -/
def encodePayload : Instr → Payload
  | .fsBufw v => { Payload.zero with v := v }
  | .rsShift k bit => { Payload.zero with k := k, bit := bit }
  | .rsCsedge k => { Payload.zero with k := k }
  | .rsComplete k => { Payload.zero with k := k }
  | .rsBufr k => { Payload.zero with k := k }
  | .rsBufw k v => { Payload.zero with k := k, v := v }
  | .rsIrqclr k m => { Payload.zero with k := k, v := m }
  | .respIdle k => { Payload.zero with k := k }
  | .respService k => { Payload.zero with k := k }
  | .respHEdge k => { Payload.zero with k := k }
  | .respHRxDisplay k => { Payload.zero with k := k }
  | .respHRxPwm k => { Payload.zero with k := k }
  | .respLinmap k x => { Payload.zero with k := k, v := x }
  | .respPwmsplit k d => { Payload.zero with k := k, d := d }
  | .respPindet k => { Payload.zero with k := k }
  | .evAdcDone ch res => { Payload.zero with ch := ch, res := res }
  | .evPin k pin level => { Payload.zero with k := k, pin := pin, level := level }
  | .evTick node => { Payload.zero with node := node }
  | .evDeliver delay => { Payload.zero with delay := delay }
  | .fsIdle | .fsDrive | .fsSample | .fsComplete | .fsBufr => Payload.zero
  | .csStable | .csSettling | .csAssert _ | .csDeassert _ | .csRead => Payload.zero
  | .pollGuard | .pollSample | .pollExcl | .pollSelect | .pollTxdata | .pollWaitdata | .pollDeselect
  | .pollSettle | .pollReselect | .pollTxsent | .pollWaitreply | .pollReceive | .pollDisplay | .pollNext
  | .pollSkip => Payload.zero
  | .smpIdle | .smpIsr | .smpStart | .evReset => Payload.zero

/-- The encoder: the word of an operation and the payload beside it. -/
def encode (i : Instr) : Byte × Payload := (encodeWord i, encodePayload i)

/-- The operation the decoder reads from a word of the opcode table, its payload zero. An operation word has
8 bits (R80): a number that does not fit them is no word. -/
def decodeTableWord (nbits w : Nat) : Option Instr :=
  if nbits = 8 ∧ w < 256 then decode (BitVec.ofNat 8 w) Payload.zero else none

end Sys2Proof
end

