-- ==== Sys2Proof/Machine/State.lean ====
section
/-! DEFINITION. The state of the SSBC as plain data: one controller node, two responder slots, the
configuration it was built with, and the list of pending operations (spec/10_state.md R20–R38, R50), with the
state right after reset (spec/70_reset_and_hazards.md R252). -/

namespace Sys2Proof
namespace Machine

/-- Why the machine stops with a fault: never. What the spec calls a fault is a sticky bit of `FAULT_C` or
`FAULT_R` after which the hardware goes on (R226, R228), so no step of the model ends in a fault. -/
inductive Fault where
deriving DecidableEq, Repr

/-- Why a step gives no meaning. -/
inductive Refusal where
  /-- An operation whose meaning is not written yet. Raised by no arm of `exec` in this model. Safe. -/
  | notModelled (mnemonic : String)
  /-- A reserved operation word was presented (R90, spec/93 I17: "refuse"). Raised by the fetch. Safe. -/
  | reservedWord
  /-- An operation names slot `k` with `k ≥ N_RESP`: a reserved word for `CS.ASSERT`/`CS.DEASSERT` (R90, R91), and
  no such node for a responder operation (R20), for a read of a node that does not exist and for a `RUN` line of one, where
  the spec is silent (DESIGN CHOICE, notes/assumptions/7.md). Raised by those meanings, by `observe` and by the fetch. Safe. -/
  | absentSlot
  /-- The configuration fails a check of R253 (spec/93 I19: "refuse"). Raised by `step`. Safe. -/
  | invalidConfig
  /-- A write through the observation interface (R62, spec/93 I18: "refuse"). Raised by the fetch. Safe. -/
  | externalRegWrite
deriving DecidableEq, Repr

/-- The controller node `C`: FSEQ (R24), CSMUX (R25), POLL (R26), SAMPLER and the ADC interface (R27), and the
port, configuration and fault registers (R28–R30). -/
structure CNode where
  /-- `FS_STATE` -/
  fsState   : Code
  /-- `SR_C`, the controller shift register -/
  srC       : Byte
  /-- `RXBUF_C` -/
  rxbufC    : Byte
  /-- `BITCNT_C`, bits remaining in the frame -/
  bitcntC   : BitVec 4
  /-- `DIVCNT_C`, ticks remaining in the half bit -/
  divcntC   : BitVec 16
  /-- `RDY` -/
  rdy       : Bool
  /-- `BUSY` -/
  busy      : Bool
  /-- bus wire `sck` (R35) -/
  sck       : Bool
  /-- bus wire `mosi` (R35) -/
  mosi      : Bool
  /-- `UNSEL_C`, hidden -/
  unselC    : Bool
  /-- `STALLED_C`, hidden -/
  stalledC  : Bool
  /-- `CS_N`, the select lines `cs_n[k]`; with `N_RESP` = 1 only bit 0 is a line and bit 1 stays 1 -/
  csN       : BitVec 2
  /-- `CS_STATE` -/
  csState   : Code
  /-- `SETTLE_CNT` -/
  settleCnt : BitVec 32
  /-- `P_STATE` -/
  pState    : Code
  /-- `SLOT` -/
  slot      : Slot
  /-- `REPLY` -/
  reply     : Byte
  /-- `GUARD_CNT` -/
  guardCnt  : BitVec 32
  /-- `SAMPLED` -/
  sampled   : Byte
  /-- `ADC_BUSY`; a conversion is pending in the environment exactly while it is 1 (R50, R241) -/
  adcBusy   : Bool
  /-- `ADIF` -/
  adif      : Bool
  /-- `ADRES` -/
  adres     : Byte
  /-- `ADC_CHSEL` -/
  adcChsel  : BitVec 4
  /-- `S_STATE` -/
  sState    : Code
  /-- port `adc_start` (R37, R213) -/
  adcStart  : Bool
  /-- `LED_C`, the port `led` -/
  ledC      : Byte
  /-- `CTRL_C` -/
  ctrlC     : Byte
  /-- `FAULT_C`, sticky (R226) -/
  faultC    : Byte
deriving DecidableEq, Repr, Inhabited

/-- A responder node `R_k`: RSHIFT (R31), RESP (R32), its configuration and fault registers (R33, R34), and the
levels the environment puts on its input pins (R37). -/
structure RNode where
  /-- `SR_R`, the responder shift register; its bit 7 is `miso_drv` -/
  srR      : Byte
  /-- `RXBUF_R` -/
  rxbufR   : Byte
  /-- `BITCNT_R` -/
  bitcntR  : BitVec 4
  /-- `RXF` -/
  rxf      : Bool
  /-- `IRQF_RX` -/
  irqfRx   : Bool
  /-- `CS_SEEN`, hidden -/
  csSeen   : Bool
  /-- `R_STATE` -/
  rState   : Code
  /-- `COUNTER` -/
  counter  : Byte
  /-- `EDGE_F` -/
  edgeF    : Bool
  /-- `PIN_LAST`, hidden: bit 0 `inc_n`, bit 1 `dec_n` -/
  pinLast  : BitVec 2
  /-- `EDGE_EN` -/
  edgeEn   : BitVec 2
  /-- `LED_R`, the port `led` -/
  ledR     : Byte
  /-- `DUTY_H` -/
  dutyH    : Byte
  /-- `DUTY_L` -/
  dutyL    : BitVec 2
  /-- `PWM_PR` -/
  pwmPr    : Byte
  /-- `CTRL_R` -/
  ctrlR    : Byte
  /-- `FAULT_R`, sticky (R226) -/
  faultR   : Byte
  /-- input pin `inc_n` -/
  incN     : Bool
  /-- input pin `dec_n` -/
  decN     : Bool
deriving DecidableEq, Repr, Inhabited

/-- One pending item of a scenario (R95), or an access through the observation interface (R62). -/
inductive ScriptItem where
  /-- the word of an event, or of a state the scenario passes through, with its payload -/
  | op (word : Byte) (payload : Payload)
  /-- a word listed for what happens inside the step of another item: an action in braces, `RS.SHIFT` and `RS.COMPLETE` of a
  frame (spec/95 notation) -/
  | invoked (word : Byte)
  /-- `RUN node until S` (R94), `S` the state `code` of `fsm`, which names the node -/
  | run (fsm : Fsm) (code : Code)
  | regRead (node : Node) (idx : Byte)
  | regWrite (node : Node) (idx : Byte) (v : Byte)
deriving DecidableEq, Repr, Inhabited

/-- The state of the machine (R20). `cfg`, `script`, `owed`, `drawIdx`, `result` and `resultStat` are the MODEL's own:
the configuration record (a model argument, R8, that no step writes), the pending items in the order they
are taken (R95), the operations whose words have been taken while they waited (`wait until`, R10), oldest first, how many
free values have been drawn (R10), and the value the last read returned (R10 `RegRead`; R105, R113, R135, R187 `result`). -/
structure State where
  cfg        : Config
  c          : CNode
  r0         : RNode
  r1         : RNode
  script     : List ScriptItem
  owed       : List Instr
  drawIdx    : Nat
  result     : BitVec 10
  resultStat : Byte
deriving DecidableEq, Repr, Inhabited

/-- The value loaded into `CTRL_C` or `CTRL_R` at reset (R29, R33): `EN` = 1, then `ROLE`, `CPOL`, `CPHA`, `IE`. -/
def ctrlValue (role cpol cpha ie : Bool) : Byte :=
  0b000#3 ++ BitVec.ofBool ie ++ BitVec.ofBool cpha ++ BitVec.ofBool cpol ++ BitVec.ofBool role ++ 0b1#1

/-- Node `C` at reset (R252). `draw n` is the value of the `n`-th draw-valued register. -/
def CNode.atReset (cfg : Config) (draw : Nat → Byte) : CNode :=
  { fsState := 0#5, srC := draw 0, rxbufC := draw 1, bitcntC := 0#4, divcntC := 0#16, rdy := false,
    busy := false, sck := cfg.cpol, mosi := true, unselC := false, stalledC := false, csN := 0b11#2,
    csState := 0#5, settleCnt := 0#32, pState := 0#5, slot := 0#1, reply := draw 2,
    guardCnt := BitVec.ofNat 32 cfg.adcGuardTicks, sampled := draw 3, adcBusy := false, adif := false,
    adres := draw 4, adcChsel := cfg.adcCh, sState := 0#5, adcStart := false, ledC := draw 5,
    ctrlC := ctrlValue true cfg.cpol cfg.cpha false, faultC := 0#8 }

/-- Node `R_k` at reset (R252), from the parameters of its slot. -/
def RNode.atReset (cfg : Config) (sc : SlotConfig) (draw : Nat → Byte) : RNode :=
  { srR := draw 0, rxbufR := draw 1, bitcntR := 0#4, rxf := false, irqfRx := false, csSeen := true,
    rState := 0#5, counter := cfg.counterSeed, edgeF := false, pinLast := 0b11#2, edgeEn := sc.edgeEn,
    ledR := draw 2, dutyH := draw 3, dutyL := (draw 4).setWidth 2, pwmPr := sc.pwmPeriod,
    ctrlR := ctrlValue false sc.cpol sc.cpha true, faultR := 0#8, incN := true, decN := true }

/-- The machine of configuration `cfg` right after its first reset, nothing pending. A draw-valued register
(R252) holds zero: DESIGN CHOICE, notes/assumptions/1.md. -/
def State.resetWith (cfg : Config) : State :=
  { cfg := cfg, c := CNode.atReset cfg (fun _ => 0#8), r0 := RNode.atReset cfg cfg.slot0 (fun _ => 0#8),
    r1 := RNode.atReset cfg cfg.slot1 (fun _ => 0#8), script := [], owed := [], drawIdx := 0,
    result := 0#10, resultStat := 0#8 }

/-- The machine right after reset, in the default two-responder configuration (R8, R252, D2, D3). -/
def State.reset : State := State.resetWith Config.twoResponders

end Machine
end Sys2Proof
end

