-- ==== Sys2Proof/Machine/Flags.lean ====
section
/-! DEFINITION. The flag bits of the SSBC: state codes and the codes assigned per FSM, the sticky fault bits and how
they are raised (spec/60_exceptions.md R226), and the status bytes in which flags are read (spec/10_state.md
R30, R34, R38). There are no arithmetic condition codes (R39). -/

namespace Sys2Proof
namespace Machine

-- FSEQ state codes (R24, R83)
abbrev FS_IDLE : Code := 0x00#5
abbrev FS_DRIVE : Code := 0x01#5
abbrev FS_SAMPLE : Code := 0x02#5
abbrev FS_COMPLETE : Code := 0x03#5
-- CSMUX state codes (R25, R84)
abbrev CS_STABLE : Code := 0x00#5
abbrev CS_SETTLING : Code := 0x01#5
-- POLL state codes (R26, R85)
abbrev P_GUARD : Code := 0x00#5
abbrev P_SAMPLE : Code := 0x01#5
abbrev P_EXCL : Code := 0x02#5
abbrev P_SELECT : Code := 0x03#5
abbrev P_TXDATA : Code := 0x04#5
abbrev P_WAITDATA : Code := 0x05#5
abbrev P_DESELECT : Code := 0x06#5
abbrev P_SETTLE : Code := 0x07#5
abbrev P_RESELECT : Code := 0x08#5
abbrev P_TXSENT : Code := 0x09#5
abbrev P_WAITREPLY : Code := 0x0A#5
abbrev P_RECEIVE : Code := 0x0B#5
abbrev P_DISPLAY : Code := 0x0C#5
abbrev P_NEXT : Code := 0x0D#5
abbrev P_SKIP : Code := 0x0E#5
-- RESP and SAMPLER state codes (R32, R86; R27, R87)
abbrev R_IDLE : Code := 0x00#5
abbrev R_SERVICE : Code := 0x01#5
abbrev S_IDLE : Code := 0x00#5

/-- `FS_STATE` codes that R83 assigns. -/
def fsAssigned (c : Code) : Bool := decide (c.toNat ≤ 0x03)
/-- `CS_STATE` codes that R84 assigns. -/
def csAssigned (c : Code) : Bool := decide (c.toNat ≤ 0x01)
/-- `P_STATE` codes that R85 assigns; 0x0F and above are illegal (R165). -/
def pollAssigned (c : Code) : Bool := decide (c.toNat ≤ 0x0E)
/-- `R_STATE` codes that R86 assigns (R189). -/
def respAssigned (c : Code) : Bool := decide (c.toNat ≤ 0x01)
/-- `S_STATE` codes that R87 assigns. -/
def smpAssigned (c : Code) : Bool := decide (c.toNat ≤ 0x00)

-- Bits of `FAULT_C` (R226)
abbrev WCOL : Byte := 0x01#8
abbrev CONTENTION : Byte := 0x02#8
abbrev ILLEGAL_STATE_C : Byte := 0x04#8
abbrev CS_EXCL : Byte := 0x08#8
abbrev CS_IN_FRAME : Byte := 0x10#8
-- Bits of `FAULT_R` (R226)
abbrev WCOL_R : Byte := 0x01#8
abbrev OVF : Byte := 0x02#8
abbrev ILLEGAL_STATE_R : Byte := 0x04#8
abbrev FRAME_ABORT : Byte := 0x08#8

/-- `raise FAULT(code)` in `C`: the bit is set and sticks; the other bits stay (R10, R226, R227). -/
def CNode.raise (c : CNode) (bit : Byte) : CNode := { c with faultC := c.faultC ||| bit }

/-- `raise FAULT(code)` in `R_k` (R10, R226, R227). -/
def RNode.raise (r : RNode) (bit : Byte) : RNode := { r with faultR := r.faultR ||| bit }

/-- A flag as bit 0 of a byte. -/
def flagBit (b : Bool) : Byte := (BitVec.ofBool b).setWidth 8

/-- `STAT_C`: bit 0 `RDY`, bit 1 `BUSY` (R30). -/
def CNode.statC (c : CNode) : Byte := flagBit c.rdy ||| flagBit c.busy <<< 1

/-- `CSSTAT`: bit 0 is `CS_STATE` = `CS_SETTLING` (R30, R135). -/
def CNode.csStat (c : CNode) : Byte := flagBit (c.csState == CS_SETTLING)

/-- `ADCSTAT`: bit 0 `ADC_BUSY`, bit 1 `ADIF` (R30). -/
def CNode.adcStat (c : CNode) : Byte := flagBit c.adcBusy ||| flagBit c.adif <<< 1

/-- `IRQ_R`: bit 0 `IRQF_RX`, bit 1 `EDGE_F` (R34). -/
def RNode.irqR (r : RNode) : Byte := flagBit r.irqfRx ||| flagBit r.edgeF <<< 1

/-- `STAT_R`: bit 0 `RXF`, bit 1 `ACTIVE` (`BITCNT_R` ≠ 0), bit 2 `SEL` (`cs_n[k]` = 0) (R34). -/
def RNode.statR (r : RNode) (csn : Bool) : Byte :=
  flagBit r.rxf ||| flagBit (r.bitcntR != 0#4) <<< 1 ||| flagBit (!csn) <<< 2

end Machine
end Sys2Proof
end

