-- ==== Sys2Proof/Machine/Ops.lean ====
section
/-! DEFINITION. The operations shared by the meanings: which responder node an operation runs in, the select lines, free
draws (spec/00_scope.md R10), the rule that an FSM steps only in the state its word names and that an unassigned
code raises ILLEGAL_STATE (spec/30_encoding.md R90, spec/60_exceptions.md R226), and interrupt entry and return
(R224, R225), which are this machine's only exceptions (R220). -/

namespace Sys2Proof
namespace Machine

/-- The outcome of an operation. -/
abbrev Result := Host.Outcome State Fault Refusal

-- Nodes

/-- The responder node of slot `k`. -/
def State.rnode (s : State) (k : Slot) : RNode := if k = 0#1 then s.r0 else s.r1

/-- Replacing the responder node of slot `k`. -/
def State.setRnode (s : State) (k : Slot) (r : RNode) : State :=
  if k = 0#1 then { s with r0 := r } else { s with r1 := r }

/-- A step of node `R_k` alone. -/
def State.mapR (s : State) (k : Slot) (f : RNode → RNode) : State := s.setRnode k (f (s.rnode k))

/-- A step of node `C` alone. -/
def State.mapC (s : State) (f : CNode → CNode) : State := { s with c := f s.c }

/-- `raise FAULT(code)` in `C` (R226). -/
def State.raiseC (s : State) (bit : Byte) : State := s.mapC (·.raise bit)

/-- `raise FAULT(code)` in `R_k` (R226). -/
def State.raiseR (s : State) (k : Slot) (bit : Byte) : State := s.mapR k (·.raise bit)

/-- An operation of slot `k`: refused where the machine has no such slot (R90, R91). -/
def onSlot (k : Slot) (s : State) (f : State → State) : Result :=
  if s.cfg.hasSlot k then .next (f s) else .refused .absentSlot

-- Select lines (R25, R130)

/-- The bit of a select register that is line `k`. -/
def lineMask (k : Slot) : BitVec 2 := if k = 0#1 then 0b01#2 else 0b10#2

/-- The level of line `cs_n[k]` in `CS_N`: true is deselected (R130). -/
def csLine (csN : BitVec 2) (k : Slot) : Bool := csN &&& lineMask k != 0#2

/-- Slot `k` exists and `cs_n[k]` = 0. -/
def State.selected (s : State) (k : Slot) : Bool := s.cfg.hasSlot k && !csLine s.c.csN k

/-- Some slot other than `k` is selected (R133, R153). -/
def State.otherSelected (s : State) (k : Slot) : Bool := s.selected (~~~k)

-- Free values (R10)

/-- The next drawn bit. -/
def State.nextBit (s : State) : Bool := Config.freeBit s.drawIdx

/-- `n` draws have been used. -/
def State.drew (s : State) (n : Nat) : State := { s with drawIdx := s.drawIdx + n }

-- FSM states

/-- A word that names state `code` of a unit whose state register holds `reg`: the unit takes the step `f` where it is in
that state; in another assigned state it has no step, which is a hold (R10); an unassigned code raises
ILLEGAL_STATE and the unit has no other step until reset (R90, R226). -/
def atState (reg code : Code) (assigned : Code → Bool) (illegal f : State → State) (s : State) : State :=
  if reg = code then f s else if assigned reg then s else illegal s

/-- A word that only its own unit invokes, of a unit whose state register holds `reg`: it acts where the code is assigned,
and raises ILLEGAL_STATE and does nothing else where it is not, since the unit has no further step until reset (R90,
R226). Which words are stopped so and which still act is the model's reading: DEDUCED, notes/assumptions/9.md. -/
def ofUnit (reg : Code) (assigned : Code → Bool) (illegal f : State → State) (s : State) : State :=
  if assigned reg then f s else illegal s

/-- ILLEGAL_STATE of an FSM of `C`. -/
def State.illegalC (s : State) : State := s.raiseC ILLEGAL_STATE_C

/-- ILLEGAL_STATE of RESP in `R_k`. -/
def State.illegalR (k : Slot) (s : State) : State := s.raiseR k ILLEGAL_STATE_R

/-- The model counts ticks (R265). -/
def State.counting (s : State) : Bool := s.cfg.time == .tickAccurate

-- Interrupt entry and return (R224, R225)

/-- The bus-receive and edge interrupts pending in a responder of variant `v` (R182, R221). -/
def RNode.pending (r : RNode) (v : Variant) : Bool := r.irqfRx || (v == .counterDisplay && r.edgeF)

/-- Interrupt entry: the dispatch to `R_SERVICE`. It saves nothing and changes no mask and no mode (R224). -/
def RNode.enterService (r : RNode) : RNode := { r with rState := R_SERVICE }

/-- Interrupt return: the end of the service step (R225). -/
def RNode.leaveService (r : RNode) : RNode := { r with rState := R_IDLE }

end Machine
end Sys2Proof
end

