-- ==== Sys2Proof/Machine/Rshift.lean ====
section
/-! DEFINITION. RSHIFT, the select-gated shift port of a responder node (spec/40_transport.md R110–R116). -/

namespace Sys2Proof
namespace Machine

/-- `v[6:0] ++ b`: a shift register takes in one bit, most significant bit first (R64, R103, R110). -/
def shiftIn (v : Byte) (b : Bool) : Byte := v.extractLsb' 0 7 ++ BitVec.ofBool b

/-- `miso_drv`: what a responder drives on `miso` while selected (R31, R35). -/
def RNode.misoDrv (r : RNode) : Bool := r.srR.getLsbD 7

/-- `RS.COMPLETE` (R112): the byte is latched, or lost with OVF where the last one was not read. -/
def RNode.complete (r : RNode) : RNode :=
  if r.rxf then { r.raise OVF with irqfRx := true }
  else { r with rxbufR := r.srR, rxf := true, irqfRx := true }

/-- `RS.SHIFT` of a selected responder (R110): one bit shifted in; the eighth completes the frame. -/
def RNode.shift (r : RNode) (bit : Bool) : RNode :=
  if r.bitcntR = 7#4 then RNode.complete { r with srR := shiftIn r.srR bit, bitcntR := 0#4 }
  else { r with srR := shiftIn r.srR bit, bitcntR := r.bitcntR + 1#4 }

/-- `RS.CSEDGE` (R111), `csn` the level of `cs_n[k]`: a deselect edge discards a partial frame, with
FRAME_ABORT; any edge updates `CS_SEEN`. -/
def RNode.csedge (r : RNode) (csn : Bool) : RNode :=
  if !r.csSeen && csn then
    { (if r.bitcntR = 0#4 then r else r.raise FRAME_ABORT) with bitcntR := 0#4, csSeen := csn }
  else { r with csSeen := csn }

/-- `RS.BUFR` (R113): a read of `BUF_R` clears `RXF`; its result is `RXBUF_R`. -/
def RNode.bufr (r : RNode) : RNode := { r with rxf := false }

/-- `RS.BUFW v` (R114): stages a reply; part-way through a frame it is ignored and raises WCOL_R. -/
def RNode.bufw (r : RNode) (v : Byte) : RNode :=
  if r.bitcntR = 0#4 then { r with srR := v } else r.raise WCOL_R

/-- `RS.IRQCLR m` (R115): a 0 bit of `m` clears its flag, a 1 bit leaves it. -/
def RNode.irqclr (r : RNode) (m : Byte) : RNode :=
  { r with irqfRx := r.irqfRx && m.getLsbD 0, edgeF := r.edgeF && m.getLsbD 1 }

-- The meanings of the RSHIFT words

/-- `RS.SHIFT k bit` (R110): a responder with `cs_n[k]` = 1 does not shift. -/
def execRsShift (k : Slot) (bit : Bool) (s : State) : Result :=
  onSlot k s fun s => if s.selected k then s.mapR k (·.shift bit) else s

/-- The word `RS.CSEDGE k` (R111). -/
def execRsCsedge (k : Slot) (s : State) : Result :=
  onSlot k s fun s => s.mapR k (·.csedge (csLine s.c.csN k))

/-- The word `RS.COMPLETE` (R112). -/
def execRsComplete (k : Slot) (s : State) : Result := onSlot k s fun s => s.mapR k RNode.complete

/-- `RS.BUFR` run as a word of its own: its result stands in `result`. -/
def execRsBufr (k : Slot) (s : State) : Result :=
  onSlot k s fun s => { s.mapR k RNode.bufr with result := (s.rnode k).rxbufR.setWidth 10 }

/-- The word `RS.BUFW v` (R114). -/
def execRsBufw (k : Slot) (v : Byte) (s : State) : Result := onSlot k s fun s => s.mapR k (·.bufw v)

/-- The word `RS.IRQCLR m` (R115). -/
def execRsIrqclr (k : Slot) (m : Byte) (s : State) : Result := onSlot k s fun s => s.mapR k (·.irqclr m)

end Machine
end Sys2Proof
end

