-- ==== Sys2Proof/Machine/Fseq.lean ====
section
/-! DEFINITION. FSEQ, the clock generator and frame sequencer of node C (spec/40_transport.md R101–R109). -/

namespace Sys2Proof
namespace Machine

/-- The reload value of `DIVCNT_C`: `HALF_BIT_TICKS` − 1 (R102–R104). -/
def State.divReload (s : State) : BitVec 16 := BitVec.ofNat 16 (s.cfg.halfBitTicks - 1)

/-- The level of `sck` in the leading half of a bit: `CPOL xor CPHA` (R102). -/
def State.driveLevel (s : State) : Bool := s.cfg.cpol ^^ s.cfg.cpha

/-- The level of the wire `miso` as C samples it: the selected responder's `SR_R[7]` where exactly one is
selected, and no level of the spec's where none or several are (R36). -/
def State.miso (s : State) : Option Bool :=
  if s.selected 0#1 && s.selected 1#1 then none
  else if s.selected 0#1 then some s.r0.misoDrv
  else if s.selected 1#1 then some s.r1.misoDrv
  else none

/-- `SAMPLE_EDGE` (R103): one atomic step in which every selected responder and C shift in one bit, each from the
state before the step. With no responder selected, or with several, the bit C receives is a draw. -/
def sampleEdge (s : State) : State :=
  let bIn := s.miso.getD s.nextBit
  let bOut := s.c.srC.getLsbD 7
  let c1 := if s.selected 0#1 && s.selected 1#1 then s.c.raise CONTENTION else s.c
  let c2 := if s.selected 0#1 || s.selected 1#1 then c1 else { c1 with unselC := true }
  { s with
    c := { c2 with srC := shiftIn s.c.srC bIn }
    r0 := if s.selected 0#1 then s.r0.shift bOut else s.r0
    r1 := if s.selected 1#1 then s.r1.shift bOut else s.r1
    drawIdx := if s.miso.isSome then s.drawIdx else s.drawIdx + 1 }

/-- `FS.IDLE` (R101): `sck` is at its idle level; the state has no other step of its own. -/
def fsIdle (s : State) : State := s.mapC fun c => { c with sck := s.cfg.cpol }

/-- `FS.DRIVE` (R102): the leading half bit. The half lasts `DIVCNT_C` + 1 ticks, one step where time is
abstract (R265), and ends with the sample edge. -/
def fsDrive (s : State) : State :=
  let s1 := s.mapC fun c => { c with sck := s.driveLevel, mosi := s.c.srC.getLsbD 7 }
  if s.counting && s.c.divcntC != 0#16 then s1.mapC fun c => { c with divcntC := c.divcntC - 1#16 }
  else (sampleEdge s1).mapC fun c => { c with divcntC := s.divReload, fsState := FS_SAMPLE }

/-- `FS.SAMPLE` (R103): the trailing half bit, which counts the bit at its end. -/
def fsSample (s : State) : State :=
  let s1 := s.mapC fun c => { c with sck := !s.driveLevel }
  if s.counting && s.c.divcntC != 0#16 then s1.mapC fun c => { c with divcntC := c.divcntC - 1#16 }
  else if s.c.bitcntC - 1#4 = 0#4 then
    s1.mapC fun c => { c with bitcntC := 0#4, fsState := FS_COMPLETE }
  else
    s1.mapC fun c =>
      { c with bitcntC := c.bitcntC - 1#4, divcntC := s.divReload, fsState := FS_DRIVE }

/-- Normal completion of a frame (R106). -/
def CNode.completeFrame (c : CNode) (cpol : Bool) : CNode :=
  { c with rxbufC := c.srC, rdy := true, busy := false, sck := cpol, fsState := FS_IDLE }

/-- `FS.COMPLETE` (R106): the frame completes; where a sample edge found no responder selected and
`STALL_ON_UNSELECTED` is set, a draw may stall FSEQ for good instead (R107). -/
def fsComplete (s : State) : State :=
  if s.c.unselC && s.cfg.stallOnUnselected then
    (s.mapC fun c => if s.nextBit then { c with stalledC := true } else c.completeFrame s.cfg.cpol).drew 1
  else s.mapC (·.completeFrame s.cfg.cpol)

/-- A word of FSEQ state `code`: a stalled FSEQ has no further step until reset (R106, R229). -/
def fseqAt (code : Code) (f : State → State) (s : State) : State :=
  if s.c.stalledC then s else atState s.c.fsState code fsAssigned State.illegalC f s

/-- The step FSEQ takes in a tick of C: that of the state it is in (R243). -/
def fseqStep (s : State) : State :=
  if s.c.stalledC then s
  else if s.c.fsState = FS_IDLE then fsIdle s
  else if s.c.fsState = FS_DRIVE then fsDrive s
  else if s.c.fsState = FS_SAMPLE then fsSample s
  else if s.c.fsState = FS_COMPLETE then fsComplete s
  else s.illegalC

/-- `FS.BUFW v` on node C (R104): a write of `BUF_C` loads the shift register and starts a frame; during a frame
it is ignored and raises WCOL. It moves `FS_STATE`, so an FSEQ that holds an unassigned code does not take it and raises
ILLEGAL_STATE (R90; DEDUCED, notes/assumptions/9.md). -/
def CNode.bufw (c : CNode) (v : Byte) (div : BitVec 16) : CNode :=
  if !fsAssigned c.fsState then c.raise ILLEGAL_STATE_C
  else if c.busy then c.raise WCOL
  else { c with srC := v, bitcntC := 8#4, divcntC := div, unselC := false, rdy := false, busy := true,
                fsState := FS_DRIVE }

/-- `FS.BUFW v` (R104). -/
def fsBufw (v : Byte) (s : State) : State := s.mapC (·.bufw v s.divReload)

/-- `FS.BUFR` on node C (R105): a read of `BUF_C` clears `RDY`; its result is `RXBUF_C`. It is POLL's or an observer's read
(R62, R65) and takes no step of FSEQ, so it acts whatever `FS_STATE` holds: DEDUCED, notes/assumptions/9.md. -/
def CNode.bufr (c : CNode) : CNode := { c with rdy := false }

-- The meanings of the FSEQ words

/-- The word `FS.IDLE` (R101). -/
def execFsIdle (s : State) : Result := .next (fseqAt FS_IDLE fsIdle s)

/-- The word `FS.DRIVE` (R102). -/
def execFsDrive (s : State) : Result := .next (fseqAt FS_DRIVE fsDrive s)

/-- The word `FS.SAMPLE` (R103). -/
def execFsSample (s : State) : Result := .next (fseqAt FS_SAMPLE fsSample s)

/-- The word `FS.COMPLETE` (R106). -/
def execFsComplete (s : State) : Result := .next (fseqAt FS_COMPLETE fsComplete s)

/-- The word `FS.BUFW v` (R104). -/
def execFsBufw (v : Byte) (s : State) : Result := .next (fsBufw v s)

/-- `FS.BUFR` run as a word of its own: its result stands in `result`. -/
def execFsBufr (s : State) : Result :=
  .next { s.mapC CNode.bufr with result := s.c.rxbufC.setWidth 10 }

end Machine
end Sys2Proof
end

