-- ==== Sys2Proof/Machine/Operands.lean ====
section
/-! DEFINITION. The register index spaces (spec/10_state.md R30, R34; spec/20_memory.md R61, R62, R65), every
register by its index, read and written with the side effects the spec gives, and the output ports (R37). -/

namespace Sys2Proof
namespace Machine

/-- `CS_C`: `CS_N` in the low `N_RESP` bits, ones above (R30, R135). -/
def State.csC (s : State) : Byte :=
  0b111111#6 ++ (if s.cfg.hasSlot 1#1 then s.c.csN else s.c.csN ||| 0b10#2)

/-- `PSTAT`: `P_STATE` in bits 4:0, `SLOT` in bit 5 (R30). -/
def CNode.pstat (c : CNode) : Byte := 0b00#2 ++ c.slot ++ c.pState

/-- `PINS`, and the value `PIN_LAST` takes: `dec_n ++ inc_n` (R34, R181). -/
def RNode.pins (r : RNode) : BitVec 2 := BitVec.ofBool r.decN ++ BitVec.ofBool r.incN

/-- The output `duty[9:0]` = `DUTY_H ++ DUTY_L` (R37). -/
def RNode.duty (r : RNode) : BitVec 10 := r.dutyH ++ r.dutyL

/-- The value at index `idx` of node C (R30); a reserved index reads 0 (R61). -/
def State.regC (s : State) (idx : Byte) : Byte :=
  match idx.toNat with
  | 0x00 => s.c.rxbufC
  | 0x01 => s.c.statC
  | 0x02 => s.c.ctrlC
  | 0x03 => s.csC
  | 0x04 => s.c.csStat
  | 0x05 => s.c.sampled
  | 0x06 => s.c.adcStat
  | 0x07 => s.c.ledC
  | 0x08 => s.c.reply
  | 0x09 => s.c.pstat
  | 0x0A => 0b000#3 ++ s.c.fsState
  | 0x0B => 0b0000#4 ++ s.c.bitcntC
  | 0x0F => s.c.faultC
  | _ => 0#8

/-- The value at index `idx` of node `R_k` (R34); a reserved index reads 0 (R61). -/
def State.regR (s : State) (k : Slot) (idx : Byte) : Byte :=
  match idx.toNat with
  | 0x00 => (s.rnode k).rxbufR
  | 0x01 => (s.rnode k).statR (csLine s.c.csN k)
  | 0x02 => (s.rnode k).ctrlR
  | 0x03 => (s.rnode k).irqR
  | 0x04 => (s.rnode k).counter
  | 0x05 => 0b000000#6 ++ (s.rnode k).pins
  | 0x06 => 0b000000#6 ++ (s.rnode k).edgeEn
  | 0x07 => (s.rnode k).ledR
  | 0x08 => (s.rnode k).dutyH
  | 0x09 => 0b000000#6 ++ (s.rnode k).dutyL
  | 0x0A => (s.rnode k).pwmPr
  | 0x0B => 0b000#3 ++ (s.rnode k).rState
  | 0x0F => (s.rnode k).faultR
  | _ => 0#8

/-- The value `RegRead(node, idx)` returns (R10). -/
def State.regValue (s : State) : Node → Byte → Byte
  | .c, idx => s.regC idx
  | .r k, idx => s.regR k idx

/-- The side effect of `RegRead(node, idx)`: a read of `BUF_C` clears `RDY`, of `BUF_R` clears `RXF`; every other
read has none (R65). -/
def State.afterRegRead (s : State) : Node → Byte → State
  | .c, idx => if idx = 0x00#8 then s.mapC CNode.bufr else s
  | .r k, idx => if idx = 0x00#8 then s.mapR k RNode.bufr else s

/-- A `RegRead` by the external agent (R62): the value stands in `result`. The spec does not say what a read of a node the
machine does not have (`R_1` with `N_RESP` = 1) does: it is refused as `absentSlot`, DESIGN CHOICE,
notes/assumptions/7.md. -/
def observe (node : Node) (idx : Byte) (s : State) : Result :=
  let seen : State := { s.afterRegRead node idx with result := (s.regValue node idx).setWidth 10 }
  match node with
  | .c => .next seen
  | .r k => if s.cfg.hasSlot k then .next seen else .refused .absentSlot

/-- `RegWrite(C, idx, v)` by `unit` (R10, R30): POLL's write of `BUF_C` starts a frame, `LED_C` takes POLL's value and
`SAMPLED` SAMPLER's. Every other index is read-only or reserved and every other unit is no writer of the register, so the
write is ignored (R61, R62). -/
def State.regWriteC (s : State) (unit : OpUnit) (idx v : Byte) : State :=
  match unit, idx.toNat with
  | .poll, 0x00 => fsBufw v s
  | .sampler, 0x05 => s.mapC fun c => { c with sampled := v }
  | .poll, 0x07 => s.mapC fun c => { c with ledC := v }
  | _, _ => s

/-- `RegWrite(R_k, idx, v)` by `unit` (R10, R34): RESP's write of `BUF_R` stages a reply, of `IRQ_R` clears flags, and
`COUNTER`, `LED_R`, `DUTY_H` and `DUTY_L` take its value. Every other index is read-only or reserved and every other unit is
no writer of the register, so the write is ignored (R61, R62). -/
def State.regWriteR (s : State) (k : Slot) (unit : OpUnit) (idx v : Byte) : State :=
  match unit, idx.toNat with
  | .resp, 0x00 => s.mapR k (·.bufw v)
  | .resp, 0x03 => s.mapR k (·.irqclr v)
  | .resp, 0x04 => s.mapR k fun r => { r with counter := v }
  | .resp, 0x07 => s.mapR k fun r => { r with ledR := v }
  | .resp, 0x08 => s.mapR k fun r => { r with dutyH := v }
  | .resp, 0x09 => s.mapR k fun r => { r with dutyL := v.setWidth 2 }
  | _, _ => s

end Machine
end Sys2Proof
end

