-- ==== Sys2Proof/Machine/Csmux.lean ====
section
/-! DEFINITION. CSMUX, the chip-select multiplexer and its settle-delay FSM (spec/41_chip_select.md R130–R137). -/

namespace Sys2Proof
namespace Machine

/-- `CS.STABLE` (R131): the state has no step of its own. -/
def csStable (s : State) : State := s

/-- `CS.SETTLING` (R132): counts the settle delay down in a tick; where time is abstract the state ends only by
`EV.DELIVER` (R244, R265). -/
def csSettling (s : State) : State :=
  if s.counting then
    s.mapC fun c =>
      if 1#32 < c.settleCnt then { c with settleCnt := c.settleCnt - 1#32 }
      else { c with settleCnt := 0#32, csState := CS_STABLE }
  else s

/-- The step CSMUX takes in a tick of C (R243). -/
def csmuxStep (s : State) : State :=
  if s.c.csState = CS_STABLE then csStable s
  else if s.c.csState = CS_SETTLING then csSettling s
  else s.illegalC

/-- A select change during a frame raises CS_IN_FRAME and is performed (R133, R134). -/
def CNode.inFrame (c : CNode) : CNode := if c.busy then c.raise CS_IN_FRAME else c

/-- `CS.ASSERT k` once `CS_STATE` = `CS_STABLE` (R133): drives `cs_n[k]` low, or is refused with CS_EXCL while
another line is low. -/
def assertLine (k : Slot) (s : State) : State :=
  if s.otherSelected k then s.mapC fun c => c.inFrame.raise CS_EXCL
  else s.mapC fun c => { c.inFrame with csN := c.csN &&& ~~~lineMask k }

/-- `CS.DEASSERT k` once `CS_STATE` = `CS_STABLE` (R134): drives `cs_n[k]` high; a transition starts the settle
delay. -/
def deassertLine (k : Slot) (s : State) : State :=
  if csLine s.c.csN k then s.mapC CNode.inFrame
  else s.mapC fun c =>
    { c.inFrame with csN := c.csN ||| lineMask k, settleCnt := BitVec.ofNat 32 s.cfg.settleTicks,
                     csState := CS_SETTLING }

/-- `CS.ASSERT k` waits until `CS_STATE` = `CS_STABLE` (R133). -/
def csAssert (k : Slot) (s : State) : State := if s.c.csState = CS_STABLE then assertLine k s else s

/-- `CS.DEASSERT k` waits until `CS_STATE` = `CS_STABLE` (R134). -/
def csDeassert (k : Slot) (s : State) : State := if s.c.csState = CS_STABLE then deassertLine k s else s

-- The meanings of the CSMUX words

/-- The word `CS.STABLE` (R131). -/
def execCsStable (s : State) : Result :=
  .next (atState s.c.csState CS_STABLE csAssigned State.illegalC csStable s)

/-- The word `CS.SETTLING` (R132). -/
def execCsSettling (s : State) : Result :=
  .next (atState s.c.csState CS_SETTLING csAssigned State.illegalC csSettling s)

/-- The word `CS.ASSERT k` (R133). -/
def execCsAssert (k : Slot) (s : State) : Result := onSlot k s (csAssert k)

/-- The word `CS.DEASSERT k` (R134). -/
def execCsDeassert (k : Slot) (s : State) : Result := onSlot k s (csDeassert k)

/-- `CS.READ` (R135): its two results stand in `result` and `resultStat`. -/
def execCsRead (s : State) : Result :=
  .next { s with result := s.csC.setWidth 10, resultStat := s.c.csStat }

end Machine
end Sys2Proof
end

