-- ==== Sys2Proof/Machine/Sampler.lean ====
section
/-! DEFINITION. SAMPLER, the ADC sampler interrupt of node C (spec/44_sampler.md R210–R214). -/

namespace Sys2Proof
namespace Machine

/-- `SMP.ISR` (R212): the result is copied where the configured channel is the expected one; the completion
flag is always cleared. -/
def smpIsr (s : State) : State :=
  s.mapC fun c =>
    { c with sampled := if c.adcChsel = s.cfg.expectedCh then c.adres else c.sampled, adif := false }

/-- `SMP.IDLE` (R211): the interrupt entry of node C, taken while `ADIF` = 1; `S_STATE` stays `S_IDLE`. -/
def smpIdle (s : State) : State := if s.c.adif then smpIsr s else s

/-- `SMP.START` (R213): pulses `adc_start` and sets `ADC_BUSY`. POLL invokes it, and `ADC_BUSY` is POLL's to set (R38,
R230), so it acts whatever `S_STATE` holds: DEDUCED, notes/assumptions/9.md. -/
def smpStart (s : State) : State := s.mapC fun c => { c with adcStart := true, adcBusy := true }

/-- The pulse on `adc_start` lasts one tick (R213): it ends at the next tick of C, and in POLL's step after the one
that started it, since POLL takes at most one step per tick (R150). -/
def CNode.endPulse (c : CNode) : CNode := { c with adcStart := false }

-- The meanings of the SAMPLER words

/-- The word `SMP.IDLE` (R211). -/
def execSmpIdle (s : State) : Result :=
  .next (atState s.c.sState S_IDLE smpAssigned State.illegalC smpIdle s)

/-- The word `SMP.ISR` (R212); only SAMPLER invokes it, so one with an unassigned code has no such step. -/
def execSmpIsr (s : State) : Result := .next (ofUnit s.c.sState smpAssigned State.illegalC smpIsr s)

/-- The word `SMP.START` (R213). -/
def execSmpStart (s : State) : Result := .next (smpStart s)

end Machine
end Sys2Proof
end

