-- ==== Sys2Proof/Machine/Poll.lean ====
section
/-! DEFINITION. POLL, the coordinator poll FSM of node C (spec/42_poll_fsm.md R150–R168). A step that waits leaves the
state as it is. -/

namespace Sys2Proof
namespace Machine

/-- `P_STATE <- code`. -/
def goP (code : Code) (s : State) : State := s.mapC fun c => { c with pState := code }

/-- A step POLL takes when `cond` holds, and waits for otherwise (R10 `wait until`). -/
def pollWhen (cond : Bool) (f : State → State) (s : State) : State :=
  if cond then f s else s

/-- `CS_STATE` = `CS_STABLE`. -/
def State.stable (s : State) : Bool := s.c.csState == CS_STABLE

/-- `POLL.GUARD` (R151): counts the guard delay down in a tick; where time is abstract the state ends only by
`EV.DELIVER` (R244, R265). -/
def pollGuard (s : State) : State :=
  pollWhen s.counting (fun s =>
    if s.c.guardCnt = 0#32 then goP P_SAMPLE s
    else s.mapC fun c => { c with guardCnt := c.guardCnt - 1#32 }) s

/-- `POLL.SAMPLE` (R152): requests a conversion unless one is in progress. The request is POLL's step and is
made whatever `S_STATE` holds: DEDUCED, notes/assumptions/9.md. -/
def pollSample (s : State) : State := goP P_EXCL (if s.c.adcBusy then s else smpStart s)

/-- `POLL.EXCL` (R153): forces the other slot's line deselected, and goes on once no other line is low. It is the step
of POLL after the one that may pulse `adc_start`, so the pulse is over (R213; notes/assumptions/12.md). -/
def pollExcl (s : State) : State :=
  pollWhen s.stable (fun s =>
    if s.otherSelected s.c.slot then csDeassert (~~~s.c.slot) (s.mapC CNode.endPulse)
    else goP P_SELECT (s.mapC CNode.endPulse)) s

/-- `POLL.SELECT` (R154): selects this slot for the data phase. -/
def pollSelect (s : State) : State :=
  pollWhen s.stable (fun s => goP P_TXDATA (csAssert s.c.slot s)) s

/-- `POLL.TXDATA` (R155): starts the data frame with `SAMPLED`. -/
def pollTxdata (s : State) : State :=
  goP (if (s.cfg.slot s.c.slot).polled then P_WAITDATA else P_SKIP) (fsBufw s.c.sampled s)

/-- `POLL.WAITDATA` (R156): waits for the data frame and discards its byte. The read is POLL's step and clears `RDY` whatever
`FS_STATE` holds, here, in `POLL.RECEIVE` and in `POLL.SKIP`: DEDUCED, notes/assumptions/9.md. -/
def pollWaitdata (s : State) : State :=
  pollWhen s.c.rdy (fun s => goP P_DESELECT (s.mapC CNode.bufr)) s

/-- `POLL.DESELECT` (R157): drives the select line high. -/
def pollDeselect (s : State) : State :=
  pollWhen s.stable (fun s => goP P_SETTLE (csDeassert s.c.slot s)) s

/-- `POLL.SETTLE` (R158): holds for the settle delay. A scenario's word `67` stands for the stay in the state, so where it is
listed before `C4` its step is owed and taken once the delay has ended (R95, notes/assumptions/20.md). -/
def pollSettle (s : State) : State := pollWhen s.stable (goP P_RESELECT) s

/-- `POLL.RESELECT` (R159): drives the select line low; `CS.ASSERT` waits for `CS_STABLE` (R133). -/
def pollReselect (s : State) : State :=
  pollWhen s.stable (fun s => goP P_TXSENT (csAssert s.c.slot s)) s

/-- `POLL.TXSENT` (R160): starts the reply frame with the sentinel. -/
def pollTxsent (s : State) : State := goP P_WAITREPLY (fsBufw s.cfg.sentinel s)

/-- `POLL.WAITREPLY` (R161): waits for the reply frame. -/
def pollWaitreply (s : State) : State := pollWhen s.c.rdy (goP P_RECEIVE) s

/-- `POLL.RECEIVE` (R162): the received byte is the poll result; its read acts as in `POLL.WAITDATA`. -/
def pollReceive (s : State) : State :=
  goP P_DISPLAY (s.mapC fun c => { c.bufr with reply := c.rxbufC })

/-- `POLL.DISPLAY` (R163): shows the reply where the slot is displayed. -/
def pollDisplay (s : State) : State :=
  goP P_NEXT (if (s.cfg.slot s.c.slot).display then s.regWriteC .poll 0x07#8 s.c.reply else s)

/-- `POLL.NEXT` (R164): the next slot, or the next iteration. -/
def pollNext (s : State) : State :=
  if s.c.slot.toNat + 1 < s.cfg.nResp then
    goP P_EXCL (s.mapC fun c => { c with slot := c.slot + 1#1 })
  else
    goP P_GUARD (s.mapC fun c =>
      { c with slot := 0#1, guardCnt := BitVec.ofNat 32 s.cfg.adcGuardTicks })

/-- `POLL.SKIP` (R156): an unpolled slot waits for the data frame, discards its byte and goes on; its read acts as in
`POLL.WAITDATA`. -/
def pollSkip (s : State) : State :=
  pollWhen s.c.rdy (fun s => goP P_NEXT (s.mapC CNode.bufr)) s

/-- A word of POLL state `code`; codes 0x0F and above raise ILLEGAL_STATE (R165). -/
def pollAt (code : Code) (f : State → State) (s : State) : State :=
  atState s.c.pState code pollAssigned State.illegalC f s

/-- The step POLL takes in a tick of C: that of the state it is in (R150, R243). -/
def pollStep (s : State) : State :=
  if s.c.pState = P_GUARD then pollGuard s
  else if s.c.pState = P_SAMPLE then pollSample s
  else if s.c.pState = P_EXCL then pollExcl s
  else if s.c.pState = P_SELECT then pollSelect s
  else if s.c.pState = P_TXDATA then pollTxdata s
  else if s.c.pState = P_WAITDATA then pollWaitdata s
  else if s.c.pState = P_DESELECT then pollDeselect s
  else if s.c.pState = P_SETTLE then pollSettle s
  else if s.c.pState = P_RESELECT then pollReselect s
  else if s.c.pState = P_TXSENT then pollTxsent s
  else if s.c.pState = P_WAITREPLY then pollWaitreply s
  else if s.c.pState = P_RECEIVE then pollReceive s
  else if s.c.pState = P_DISPLAY then pollDisplay s
  else if s.c.pState = P_NEXT then pollNext s
  else if s.c.pState = P_SKIP then pollSkip s
  else s.illegalC

-- The meanings of the POLL words

/-- The word `POLL.GUARD` (R151). -/
def execPollGuard (s : State) : Result := .next (pollAt P_GUARD pollGuard s)

/-- The word `POLL.SAMPLE` (R152). -/
def execPollSample (s : State) : Result := .next (pollAt P_SAMPLE pollSample s)

/-- The word `POLL.EXCL` (R153). -/
def execPollExcl (s : State) : Result := .next (pollAt P_EXCL pollExcl s)

/-- The word `POLL.SELECT` (R154). -/
def execPollSelect (s : State) : Result := .next (pollAt P_SELECT pollSelect s)

/-- The word `POLL.TXDATA` (R155). -/
def execPollTxdata (s : State) : Result := .next (pollAt P_TXDATA pollTxdata s)

/-- The word `POLL.WAITDATA` (R156). -/
def execPollWaitdata (s : State) : Result := .next (pollAt P_WAITDATA pollWaitdata s)

/-- The word `POLL.DESELECT` (R157). -/
def execPollDeselect (s : State) : Result := .next (pollAt P_DESELECT pollDeselect s)

/-- The word `POLL.SETTLE` (R158). -/
def execPollSettle (s : State) : Result := .next (pollAt P_SETTLE pollSettle s)

/-- The word `POLL.RESELECT` (R159). -/
def execPollReselect (s : State) : Result := .next (pollAt P_RESELECT pollReselect s)

/-- The word `POLL.TXSENT` (R160). -/
def execPollTxsent (s : State) : Result := .next (pollAt P_TXSENT pollTxsent s)

/-- The word `POLL.WAITREPLY` (R161). -/
def execPollWaitreply (s : State) : Result := .next (pollAt P_WAITREPLY pollWaitreply s)

/-- The word `POLL.RECEIVE` (R162). -/
def execPollReceive (s : State) : Result := .next (pollAt P_RECEIVE pollReceive s)

/-- The word `POLL.DISPLAY` (R163). -/
def execPollDisplay (s : State) : Result := .next (pollAt P_DISPLAY pollDisplay s)

/-- The word `POLL.NEXT` (R164). -/
def execPollNext (s : State) : Result := .next (pollAt P_NEXT pollNext s)

/-- The word `POLL.SKIP` (R156). -/
def execPollSkip (s : State) : Result := .next (pollAt P_SKIP pollSkip s)

end Machine
end Sys2Proof
end

