-- ==== Sys2Proof/Machine/Resp.lean ====
section
/-! DEFINITION. RESP, the response-handler FSM of a responder node with its edge counter, linear mapper and duty split
(spec/43_response_fsm.md R180–R191). -/

namespace Sys2Proof
namespace Machine

/-- `RESP.PINDET` (R181): a change of an enabled pin sets `EDGE_F`; `PIN_LAST` takes the present levels. It is a step of
RESP, so it is run through `inVariant` alone, which stops it where `R_STATE` is unassigned. -/
def RNode.pindet (r : RNode) : RNode :=
  { r with edgeF := r.edgeF || (r.pins ^^^ r.pinLast) &&& r.edgeEn != 0#2, pinLast := r.pins }

/-- The counter after one edge interrupt (R184): an enabled and asserted `inc_n` increments; else an enabled and
asserted `dec_n` decrements; modulo 256. -/
def RNode.adjusted (r : RNode) : Byte :=
  if r.edgeEn.getLsbD 0 && !r.incN then r.counter + 1#8
  else if r.edgeEn.getLsbD 1 && !r.decN then r.counter - 1#8
  else r.counter

/-- `RESP.H_EDGE` (R184): adjusts the counter, then clears `EDGE_F`. -/
def RNode.hEdge (r : RNode) : RNode := RNode.irqclr { r with counter := r.adjusted } 0b01#8

/-- `RESP.H_RX_DISPLAY` (R185): shows the inbound byte, stages the counter as the reply, clears `IRQF_RX` last. -/
def RNode.hRxDisplay (r : RNode) : RNode :=
  (RNode.bufw { r.bufr with ledR := r.rxbufR } r.counter).irqclr 0b10#8

/-- `RESP.LINMAP x` (R187): `OUT_MIN` + round((`OUT_MAX` − `OUT_MIN`)(x − `IN_MIN`)/(`IN_MAX` − `IN_MIN`)), ties away
from zero, in exact integer arithmetic. -/
def linmap (cfg : Config) (sc : SlotConfig) (x : Byte) : BitVec 10 :=
  let w : Int := cfg.inMax - cfg.inMin
  let q : Int := ((sc.outMax : Int) - sc.outMin) * ((x.toNat : Int) - cfg.inMin)
  let r : Int := if 0 ≤ q then (2 * q + w) / (2 * w) else -((2 * (-q) + w) / (2 * w))
  BitVec.ofInt 10 (sc.outMin + r)

/-- `RESP.PWMSPLIT d` (R188): both duty fields, in one step. -/
def RNode.pwmsplit (r : RNode) (d : BitVec 10) : RNode :=
  { r with dutyH := d.extractLsb' 2 8, dutyL := d.extractLsb' 0 2 }

/-- `RESP.H_RX_PWM` (R186): maps the inbound byte to the duty; loads no reply; clears `IRQF_RX` last. -/
def RNode.hRxPwm (r : RNode) (cfg : Config) (sc : SlotConfig) : RNode :=
  (r.bufr.pwmsplit (linmap cfg sc r.rxbufR)).irqclr 0b10#8

/-- `RESP.IDLE` (R182): interrupt entry while a source is pending. -/
def RNode.idle (r : RNode) (v : Variant) : RNode := if r.pending v then r.enterService else r

/-- The edge handler's part of a service (R183). -/
def RNode.serviceEdge (r : RNode) (v : Variant) : RNode :=
  if v = .counterDisplay ∧ r.edgeF = true then r.hEdge else r

/-- The bus-receive handler's part of a service (R183). -/
def RNode.serviceRx (r : RNode) (cfg : Config) (sc : SlotConfig) : RNode :=
  if r.irqfRx then
    match sc.variant with
    | .counterDisplay => r.hRxDisplay
    | .pwm => r.hRxPwm cfg sc
  else r

/-- `RESP.SERVICE` (R183): every pending handler, the edge handler first, then interrupt return. -/
def RNode.service (r : RNode) (cfg : Config) (sc : SlotConfig) : RNode :=
  ((r.serviceEdge sc.variant).serviceRx cfg sc).leaveService

/-- A word of RESP state `code` in `R_k`; an unassigned `R_STATE` raises ILLEGAL_STATE (R189). -/
def respAt (k : Slot) (code : Code) (f : RNode → RNode) (s : State) : State :=
  atState (s.rnode k).rState code respAssigned (State.illegalR k) (fun s => s.mapR k f) s

/-- The step RESP takes in `R_k`: that of the state it is in. -/
def respStep (k : Slot) (s : State) : State :=
  if (s.rnode k).rState = R_IDLE then s.mapR k (·.idle (s.cfg.slot k).variant)
  else if (s.rnode k).rState = R_SERVICE then s.mapR k (·.service s.cfg (s.cfg.slot k))
  else State.illegalR k s

/-- A word of RESP that is no state's word. Only RESP invokes it (R81, R183–R188), so one that holds an unassigned code
raises ILLEGAL_STATE and has no such step (R90, R189; DEDUCED, notes/assumptions/9.md). -/
def respOwn (k : Slot) (f : State → State) (s : State) : State :=
  ofUnit (s.rnode k).rState respAssigned (State.illegalR k) f s

/-- A step of RESP that only responders of variant `v` have: another responder has no such step and holds (R32,
R181). -/
def inVariant (v : Variant) (k : Slot) (f : RNode → RNode) (s : State) : State :=
  if (s.cfg.slot k).variant = v then respOwn k (·.mapR k f) s else s

-- The meanings of the RESP words

/-- The word `RESP.IDLE` (R182). -/
def execRespIdle (k : Slot) (s : State) : Result :=
  onSlot k s fun s => respAt k R_IDLE (·.idle (s.cfg.slot k).variant) s

/-- The word `RESP.SERVICE` (R183). -/
def execRespService (k : Slot) (s : State) : Result :=
  onSlot k s fun s => respAt k R_SERVICE (·.service s.cfg (s.cfg.slot k)) s

/-- The word `RESP.H_EDGE` (R184). -/
def execRespHEdge (k : Slot) (s : State) : Result := onSlot k s (inVariant .counterDisplay k RNode.hEdge)

/-- The word `RESP.H_RX_DISPLAY` (R185). -/
def execRespHRxDisplay (k : Slot) (s : State) : Result :=
  onSlot k s (inVariant .counterDisplay k RNode.hRxDisplay)

/-- The word `RESP.H_RX_PWM` (R186). -/
def execRespHRxPwm (k : Slot) (s : State) : Result :=
  onSlot k s fun s => inVariant .pwm k (·.hRxPwm s.cfg (s.cfg.slot k)) s

/-- `RESP.LINMAP x` run as a word of its own: its result stands in `result`; a RESP with an unassigned code gives none. -/
def execRespLinmap (k : Slot) (x : Byte) (s : State) : Result :=
  onSlot k s (respOwn k fun s => { s with result := linmap s.cfg (s.cfg.slot k) x })

/-- The word `RESP.PWMSPLIT d` (R188). -/
def execRespPwmsplit (k : Slot) (d : BitVec 10) (s : State) : Result :=
  onSlot k s (inVariant .pwm k (·.pwmsplit d))

/-- The word `RESP.PINDET` (R181). -/
def execRespPindet (k : Slot) (s : State) : Result := onSlot k s (inVariant .counterDisplay k RNode.pindet)

end Machine
end Sys2Proof
end

