-- ==== Sys2Proof/Machine/Event.lean ====
section
/-! DEFINITION. The inputs from the environment (spec/60_exceptions.md R240–R244, spec/70_reset_and_hazards.md R250). -/

namespace Sys2Proof
namespace Machine

/-- How many draw-valued registers a reset loads: 6 in C and 5 in each responder (R252). -/
def resetDraws : Nat := 16

/-- `EV.RESET` (R250): every register of every node takes its reset value, draw-valued ones a fresh draw. The
configuration and the pending items are not the nodes'. -/
def evReset (s : State) : State :=
  let draw (base n : Nat) : Byte := Config.freeByte (s.drawIdx + base + n)
  State.drew
    { s with
      c := CNode.atReset s.cfg (draw 0)
      r0 := RNode.atReset s.cfg s.cfg.slot0 (draw 6)
      r1 := RNode.atReset s.cfg s.cfg.slot1 (draw 11) } resetDraws

/-- `EV.ADC_DONE ch res` is enabled: a conversion is in progress and `ch` is the configured channel (R241). -/
def State.adcDoneEnabled (s : State) (ch : BitVec 4) : Bool := s.c.adcBusy && ch == s.c.adcChsel

/-- `EV.ADC_DONE ch res` (R241); where it is not enabled the environment has no such move (R240). -/
def evAdcDone (ch : BitVec 4) (res : Byte) (s : State) : State :=
  if s.adcDoneEnabled ch then s.mapC fun c => { c with adres := res, adcBusy := false, adif := true }
  else s

/-- `EV.PIN` in `R_k` (R242). -/
def RNode.setPin (r : RNode) (pin : Pin) (level : Bool) : RNode :=
  match pin with
  | .inc => { r with incN := level }
  | .dec => { r with decN := level }

/-- A tick of C (R243): FSEQ, then CSMUX, then POLL, each seeing the writes of the one before (R10). -/
def tickC (s : State) : State := pollStep (csmuxStep (fseqStep (s.mapC CNode.endPulse)))

/-- RESP in a tick of `R_k`: whether it steps is a draw, since its service latency is one (R262, R265). -/
def respTick (k : Slot) (s : State) : State := (if s.nextBit then respStep k s else s).drew 1

/-- A tick of `R_k` (R243): `RS.CSEDGE`, then `RESP.PINDET`, then RESP. -/
def tickR (k : Slot) (s : State) : State :=
  respTick k (inVariant .counterDisplay k RNode.pindet (s.mapR k (·.csedge (csLine s.c.csN k))))

/-- `EV.TICK` (R243): a time-abstract model has no ticks. -/
def evTick (node : Node) (s : State) : State :=
  if s.counting then
    match node with
    | .c => tickC s
    | .r k => tickR k s
  else s

/-- The end of the counted delay of one unit, where it runs (R244). -/
def endDelay (delay : DelayUnit) (s : State) : State :=
  match delay with
  | .csmux =>
    if s.c.csState = CS_SETTLING then s.mapC fun c => { c with settleCnt := 0#32, csState := CS_STABLE }
    else s
  | .poll =>
    if s.c.pState = P_GUARD then s.mapC fun c => { c with guardCnt := 0#32, pState := P_SAMPLE } else s

/-- Both counted delays run. -/
def State.bothDelaysRun (s : State) : Bool := s.c.csState == CS_SETTLING && s.c.pState == P_GUARD

/-- `EV.DELIVER` (R89, R244): ends a running delay; only a time-abstract model uses it. The event with an operand ends the
delay of that unit. The event without one ends a running delay, the spec not saying which where both run: there a free bit
decides (DESIGN CHOICE, notes/assumptions/19.md). -/
def evDeliver (delay : Option DelayUnit) (s : State) : State :=
  if s.counting then s
  else
    match delay with
    | some unit => endDelay unit s
    | none =>
      if s.bothDelaysRun then (endDelay (if s.nextBit then .csmux else .poll) s).drew 1
      else endDelay .poll (endDelay .csmux s)

-- The meanings of the EVENT words

/-- The word `EV.RESET` (R250). -/
def execEvReset (s : State) : Result := .next (evReset s)

/-- The word `EV.ADC_DONE ch res` (R241). -/
def execEvAdcDone (ch : BitVec 4) (res : Byte) (s : State) : Result := .next (evAdcDone ch res s)

/-- The word `EV.PIN k pin level` (R242). -/
def execEvPin (k : Slot) (pin : Pin) (level : Bool) (s : State) : Result :=
  onSlot k s fun s => s.mapR k (·.setPin pin level)

/-- The word `EV.TICK node` (R243). -/
def execEvTick (node : Node) (s : State) : Result :=
  match node with
  | .c => .next (evTick .c s)
  | .r k => onSlot k s (evTick (.r k))

/-- The word `EV.DELIVER`, without an operand or with its `unit` (R89, R244). -/
def execEvDeliver (delay : Option DelayUnit) (s : State) : Result := .next (evDeliver delay s)

end Machine
end Sys2Proof
end

