-- ==== Sys2Proof/Machine/Dispatch.lean ====
section
/-! DEFINITION. The dispatch: one arm per operation, each the meaning of that operation. -/

namespace Sys2Proof
namespace Machine

def exec (i : Instr) (s : State) : Host.Outcome State Fault Refusal :=
  match i with
  | .fsIdle => Sys2Proof.Machine.execFsIdle s
  | .fsDrive => Sys2Proof.Machine.execFsDrive s
  | .fsSample => Sys2Proof.Machine.execFsSample s
  | .fsComplete => Sys2Proof.Machine.execFsComplete s
  | .fsBufw v => Sys2Proof.Machine.execFsBufw v s
  | .fsBufr => Sys2Proof.Machine.execFsBufr s
  | .rsShift k bit => Sys2Proof.Machine.execRsShift k bit s
  | .rsCsedge k => Sys2Proof.Machine.execRsCsedge k s
  | .rsComplete k => Sys2Proof.Machine.execRsComplete k s
  | .rsBufr k => Sys2Proof.Machine.execRsBufr k s
  | .rsBufw k v => Sys2Proof.Machine.execRsBufw k v s
  | .rsIrqclr k m => Sys2Proof.Machine.execRsIrqclr k m s
  | .csStable => Sys2Proof.Machine.execCsStable s
  | .csSettling => Sys2Proof.Machine.execCsSettling s
  | .csAssert k => Sys2Proof.Machine.execCsAssert k s
  | .csDeassert k => Sys2Proof.Machine.execCsDeassert k s
  | .csRead => Sys2Proof.Machine.execCsRead s
  | .pollGuard => Sys2Proof.Machine.execPollGuard s
  | .pollSample => Sys2Proof.Machine.execPollSample s
  | .pollExcl => Sys2Proof.Machine.execPollExcl s
  | .pollSelect => Sys2Proof.Machine.execPollSelect s
  | .pollTxdata => Sys2Proof.Machine.execPollTxdata s
  | .pollWaitdata => Sys2Proof.Machine.execPollWaitdata s
  | .pollDeselect => Sys2Proof.Machine.execPollDeselect s
  | .pollSettle => Sys2Proof.Machine.execPollSettle s
  | .pollReselect => Sys2Proof.Machine.execPollReselect s
  | .pollTxsent => Sys2Proof.Machine.execPollTxsent s
  | .pollWaitreply => Sys2Proof.Machine.execPollWaitreply s
  | .pollReceive => Sys2Proof.Machine.execPollReceive s
  | .pollDisplay => Sys2Proof.Machine.execPollDisplay s
  | .pollNext => Sys2Proof.Machine.execPollNext s
  | .pollSkip => Sys2Proof.Machine.execPollSkip s
  | .respIdle k => Sys2Proof.Machine.execRespIdle k s
  | .respService k => Sys2Proof.Machine.execRespService k s
  | .respHEdge k => Sys2Proof.Machine.execRespHEdge k s
  | .respHRxDisplay k => Sys2Proof.Machine.execRespHRxDisplay k s
  | .respHRxPwm k => Sys2Proof.Machine.execRespHRxPwm k s
  | .respLinmap k x => Sys2Proof.Machine.execRespLinmap k x s
  | .respPwmsplit k d => Sys2Proof.Machine.execRespPwmsplit k d s
  | .respPindet k => Sys2Proof.Machine.execRespPindet k s
  | .smpIdle => Sys2Proof.Machine.execSmpIdle s
  | .smpIsr => Sys2Proof.Machine.execSmpIsr s
  | .smpStart => Sys2Proof.Machine.execSmpStart s
  | .evReset => Sys2Proof.Machine.execEvReset s
  | .evAdcDone ch res => Sys2Proof.Machine.execEvAdcDone ch res s
  | .evPin k pin level => Sys2Proof.Machine.execEvPin k pin level s
  | .evTick node => Sys2Proof.Machine.execEvTick node s
  | .evDeliver delay => Sys2Proof.Machine.execEvDeliver delay s

end Machine
end Sys2Proof
end

