-- ==== Sys2Proof/Machine/Schedule.lean ====
section
/-! DEFINITION. Which operation runs next. The SSBC fetches no instructions (spec/20_memory.md R73): its moves are the
agents' steps and the environment's events in one order (R68, R223). That order is data: the pending items of the
state, taken first to last (spec/30_encoding.md R95); where none is pending it is a free value. -/

namespace Sys2Proof
namespace Machine

-- Waiting

/-- The operation waits in `s`: its unit is in the state that its word names and what the state waits for does not hold (R10
`wait until`; CSMUX R132–R134, POLL R151–R161, RESP R182, SAMPLER R211). Where time is abstract a counted delay is waited
out until `EV.DELIVER` (R244). -/
def State.waits (s : State) (i : Instr) : Bool :=
  match i with
  | .csSettling => !s.counting && s.c.csState == CS_SETTLING
  | .csAssert _ | .csDeassert _ => !s.stable
  | .pollGuard => !s.counting && s.c.pState == P_GUARD
  | .pollExcl => s.c.pState == P_EXCL && !s.stable
  | .pollSelect => s.c.pState == P_SELECT && !s.stable
  | .pollWaitdata => s.c.pState == P_WAITDATA && !s.c.rdy
  | .pollDeselect => s.c.pState == P_DESELECT && !s.stable
  | .pollSettle => s.c.pState == P_SETTLE && !s.stable
  | .pollReselect => s.c.pState == P_RESELECT && !s.stable
  | .pollWaitreply => s.c.pState == P_WAITREPLY && !s.c.rdy
  | .pollSkip => s.c.pState == P_SKIP && !s.c.rdy
  | .respIdle k => (s.rnode k).rState == R_IDLE && !(s.rnode k).pending (s.cfg.slot k).variant
  | .smpIdle => s.c.sState == S_IDLE && !s.c.adif
  | .fsIdle | .fsDrive | .fsSample | .fsComplete | .fsBufw _ | .fsBufr => false
  | .rsShift _ _ | .rsCsedge _ | .rsComplete _ | .rsBufr _ | .rsBufw _ _ | .rsIrqclr _ _ => false
  | .csStable | .csRead => false
  | .pollSample | .pollTxdata | .pollTxsent | .pollReceive | .pollDisplay | .pollNext => false
  | .respService _ | .respHEdge _ | .respHRxDisplay _ | .respHRxPwm _ | .respLinmap _ _ | .respPwmsplit _ _
  | .respPindet _ => false
  | .smpIsr | .smpStart => false
  | .evReset | .evAdcDone _ _ | .evPin _ _ _ | .evTick _ | .evDeliver _ => false

/-- The first of the owed operations that waits no longer, and the others in their order. -/
def State.takeDue (s : State) : List Instr → Option (Instr × List Instr)
  | [] => none
  | i :: rest => if s.waits i then (s.takeDue rest).map fun d => (d.1, i :: d.2) else some (i, rest)

/-- Every owed operation still waits. -/
def State.noneDue (s : State) : Bool := s.owed.all s.waits

/-- The owed operations once the word of `i` has been taken: `i` is owed its step where it waits (R10, R95). -/
def State.owing (s : State) (i : Instr) : List Instr := if s.waits i then s.owed ++ [i] else s.owed

-- Free moves

/-- The operations that are moves of their own, in each treatment of time: the words of FSM states, `RS.CSEDGE`,
`RESP.PINDET`, and the events where time is abstract (R265); the events and the SAMPLER interrupt where C and
`R_k` step by ticks (R230, R243). Every other word happens only inside one of these (R82). -/
def isMove (time : TimeModel) (i : Instr) : Bool :=
  match time with
  | .timeAbstract =>
    match i with
    | .rsCsedge _ => true
    | .respPindet _ => true
    | i => i.kind == .state || i.kind == .event
  | .tickAccurate => i == .smpIdle || i.kind == .event

/-- The node whose agents take the step, for a step of agents (R2, R81): a tick is one of its node (R243), the other events
are the environment's. -/
def agentNode (i : Instr) : Option Node :=
  match i.unit with
  | .fseq | .csmux | .poll | .sampler => some .c
  | .rshift | .resp => i.slot?.map .r
  | .event =>
    match i with
    | .evTick node => some node
    | _ => none

/-- A step whose move is a free value among those that `allowed` lets through; one that it does not, or that the machine
does not have, is no move, and the state stays (R12, R223, R265 (b)). -/
def freeStep (allowed : Instr → Bool) (s : State) : Result :=
  if allowed (Config.freeMove s.drawIdx) && (Config.freeMove s.drawIdx).wellFormed s.cfg then
    exec (Config.freeMove s.drawIdx) (s.drew 1)
  else .next (s.drew 1)

-- Pending items

/-- The state register of an FSM (R21). -/
def State.fsmCode (s : State) : Fsm → Code
  | .fseq => s.c.fsState
  | .csmux => s.c.csState
  | .poll => s.c.pState
  | .sampler => s.c.sState
  | .resp k => (s.rnode k).rState

/-- The machine has the node an FSM stands in (R20). -/
def State.hasFsm (s : State) : Fsm → Bool
  | .fseq | .csmux | .poll | .sampler => true
  | .resp k => s.cfg.hasSlot k

/-- The moves of a `RUN` line: the steps of the agents of the node (R94). -/
def runMove (time : TimeModel) (node : Node) (i : Instr) : Bool := isMove time i && agentNode i == some node

/-- `RUN node until S` (R94): the agents of the node step, in an order the spec leaves open, until the FSM is in the state;
then the line is done. The line stays pending until then. -/
def runUntil (fsm : Fsm) (code : Code) (rest : List ScriptItem) (s : State) : Result :=
  if s.hasFsm fsm then
    if s.fsmCode fsm = code then .next { s with script := rest }
    else freeStep (runMove s.cfg.time fsm.node) s
  else .refused .absentSlot

/-- Taking the first pending item, `rest` the others. The word of an event or a state is decoded and run; a state that waits
holds, and its word stands for the stay in the state (R95): the step is owed. A word listed for what happens inside another
step has no step of its own. A reserved word is refused (R90, spec/93 I17); a read through the observation interface is
served and a write refused (R62, spec/93 I18). DEDUCED and DESIGN CHOICE, notes/assumptions/20.md. -/
def runItem (item : ScriptItem) (rest : List ScriptItem) (s : State) : Result :=
  match item with
  | .op word payload =>
    match decode word payload with
    | some i => exec i { s with script := rest, owed := s.owing i }
    | none => .refused .reservedWord
  | .invoked word =>
    match decode word Payload.zero with
    | some i => if i.wellFormed s.cfg then .next { s with script := rest } else .refused .absentSlot
    | none => .refused .reservedWord
  | .run fsm code => runUntil fsm code rest s
  | .regRead node idx => observe node idx { s with script := rest }
  | .regWrite _ _ _ => .refused .externalRegWrite

/-- One step of a machine whose configuration is valid: an owed operation that waits no longer, else the first pending item,
else a free move. -/
def nextStep (s : State) : Result :=
  match s.takeDue s.owed with
  | some (i, others) => exec i { s with owed := others }
  | none =>
    match s.script with
    | [] => freeStep (isMove s.cfg.time) s
    | item :: rest => runItem item rest s

/-- Placing an operation word, its payload zero, where the next step takes it: first among the pending items, nothing owed. -/
def State.placeWord (s : State) (w : Nat) : State :=
  { s with script := .op (BitVec.ofNat 8 w) Payload.zero :: s.script, owed := [] }

end Machine
end Sys2Proof
end

