-- ==== Sys2Proof/Machine/Step.lean ====
section
/-! DEFINITION. One step of the machine. A configuration that fails a check of spec/70_reset_and_hazards.md R253 has no
run and is refused. -/

namespace Sys2Proof
namespace Machine

/-- One step: an owed operation that waits no longer, else the first pending item, else a free move. -/
def step (s : State) : Host.Outcome State Fault Refusal :=
  if s.cfg.ok then nextStep s else .refused .invalidConfig

/-- `s` with the operation word `w` first among the pending items and nothing owed, so that the next step runs it. An
operation word has 8 bits (R80) whatever the table's `nbits`, and the payload beside it is zero. -/
def State.withFetchWord (s : State) (_nbits w : Nat) : State := s.placeWord w

end Machine
end Sys2Proof
end

