-- ==== Sys2Proof/Safety.lean ====
section
/-! DEFINITION. What counts as a safe run, in the terms that claims use: the fault and stall predicates (spec/60_exceptions.md
R228, R229), runs and their fairness (R240, R244, spec/70_reset_and_hazards.md R265), the named premises the spec requires
of a time-abstract claim (R262, spec/41_chip_select.md R137), the invariants of the machine, and lists of operations run
in order. -/

namespace Sys2Proof
namespace Machine

-- Safe states

/-- No fault bit is set in any node (R228). -/
def noFault (s : State) : Bool :=
  s.c.faultC == 0#8 && s.r0.faultR == 0#8 && (!s.cfg.hasSlot 1#1 || s.r1.faultR == 0#8)

/-- A state that may end a safe run: no fault bit set, and FSEQ not stalled (R228, R229). -/
def safe (s : State) : Bool := noFault s && !s.c.stalledC

-- Runs

/-- A run: `moves n` is the move taken in state `run n`, each a move of the model of a node that exists, one after another
in one total order (R68, R223, R265 (b)). -/
structure IsRun (moves : Nat → Instr) (run : Nat → State) : Prop where
  move : ∀ n, isMove (run n).cfg.time (moves n) = true ∧ (moves n).wellFormed (run n).cfg = true
  next : ∀ n, exec (moves n) (run n) = .next (run (n + 1))

-- Fairness (R240, R244, R265 (d)): a premise of claims about infinite runs, notes/assumptions/21.md

/-- The move `i` is enabled: it changes the state (one that is not enabled holds, notes/assumptions/8.md). `RESP.PINDET` is
enabled by a change of an ENABLED pin alone (R181). -/
def Enabled (i : Instr) (s : State) : Prop :=
  (∃ t, exec i s = .next t ∧ t ≠ s)
    ∧ ∀ k : Slot, i = .respPindet k → ((s.rnode k).pins ^^^ (s.rnode k).pinLast) &&& (s.rnode k).edgeEn ≠ 0#2

/-- The moves that weak fairness is owed: the agents' own steps and the end of a running delay (R244, R265 (d)). The
environment owes no reset, no ADC completion (R241) and no pin change (R240); the end of a delay is owed as the event with its
unit, and ticks have a clause of their own. -/
def owedFairness (time : TimeModel) (i : Instr) : Bool :=
  isMove time i &&
    match i with
    | .evReset => false
    | .evAdcDone _ _ => false
    | .evPin _ _ _ => false
    | .evTick _ => false
    | .evDeliver none => false
    | _ => true

/-- A fair run. `agents`: no owed move stays enabled for ever without being taken (R244, R265 (d)). `ticks`: in a tick model
the oscillator ticks every node unboundedly often (R240). `service`: there RESP, whose latency in a tick is a draw, does
not stay enabled for ever without its step (R182, R265). -/
structure Fair (moves : Nat → Instr) (run : Nat → State) : Prop where
  agents  : ∀ (i : Instr) (n : Nat), owedFairness (run n).cfg.time i = true →
      ∃ m, n ≤ m ∧ (¬Enabled i (run m) ∨ moves m = i)
  ticks   : ∀ (node : Node) (n : Nat), (run n).cfg.time = .tickAccurate →
      (Instr.evTick node).wellFormed (run n).cfg = true → ∃ m, n ≤ m ∧ moves m = .evTick node
  service : ∀ (k : Slot) (i : Instr) (n : Nat), (run n).cfg.time = .tickAccurate → i = .respIdle k ∨ i = .respService k →
      ∃ m, n ≤ m ∧ ¬Enabled i (run m)

-- The named premises of a time-abstract claim

/-- The move `i` taken in `s` ends with a `SAMPLE_EDGE` (R102, R243, R265). -/
def takesSampleEdge (i : Instr) (s : State) : Bool :=
  (i == .fsDrive || i == .evTick .c && s.counting) && !s.c.stalledC && s.c.fsState == FS_DRIVE
    && (!s.counting || s.c.divcntC == 0#16)

/-- `ServiceBeforeReply(k)` (R262) at a state that takes a sample edge. The sample edge next after a data frame of a polled
slot is the first of its reply frame: there the data frame has been serviced. It asks nothing of the service of a
reply frame. -/
def serviceBeforeReply (k : Slot) (s : State) : Prop :=
  s.c.pState = P_WAITREPLY → s.c.slot = k → s.selected k = true → s.c.bitcntC = 8#4 → (s.rnode k).irqfRx = false

/-- The premise `ServiceBeforeReply(k)` of a run (R262): every service of a data frame on `R_k` happens before the next
`SAMPLE_EDGE`. -/
def ServiceBeforeReply (k : Slot) (moves : Nat → Instr) (run : Nat → State) : Prop :=
  ∀ n, takesSampleEdge (moves n) (run n) = true → serviceBeforeReply k (run n)

/-- Line `k` goes from low to high: a deselect edge. -/
def Deselects (k : Slot) (s t : State) : Prop := csLine s.c.csN k = false ∧ csLine t.c.csN k = true

/-- The settle delay that runs in `run (n + 1)` ends with the move `m`, the first `EV.DELIVER` that ends it. -/
def SettleEndsAt (moves : Nat → Instr) (run : Nat → State) (n m : Nat) : Prop :=
  n < m ∧ (∀ j, n < j → j ≤ m → (run j).c.csState = CS_SETTLING) ∧ (run (m + 1)).c.csState = CS_STABLE
    ∧ ∃ delay, moves m = .evDeliver delay

/-- The move `j` is `RS.CSEDGE` of `R_k`, enabled by a deselect edge: the line is high and `R_k` last saw it low (R111). -/
def SeesDeselect (k : Slot) (moves : Nat → Instr) (run : Nat → State) (j : Nat) : Prop :=
  moves j = .rsCsedge k ∧ csLine (run j).c.csN k = true ∧ ((run j).rnode k).csSeen = false

/-- The premise of R137 of a run, where time is abstract: `R_k` performs `RS.CSEDGE` for a deselect edge of its line, so
after the edge, and before the matching `EV.DELIVER unit=CSMUX`. A run in which `R_k` missed the select before a deselect
has no such step and does not meet it. -/
def DeselectEdgesSeen (k : Slot) (moves : Nat → Instr) (run : Nat → State) : Prop :=
  ∀ n m, Deselects k (run n) (run (n + 1)) → SettleEndsAt moves run n m → ∃ j, n < j ∧ j < m ∧ SeesDeselect k moves run j

/-- How many of the `d` moves from the `n`-th on are `i`. -/
def movesIn (moves : Nat → Instr) (i : Instr) (n : Nat) : Nat → Nat
  | 0 => 0
  | d + 1 => movesIn moves i n d + if moves (n + d) = i then 1 else 0

/-- The premise of R137 of a run, where C and `R_k` step by ticks: `F_CLK` is equal on C and `R_k`. In any stretch of the run
the two nodes' ticks differ in number by at most one, as the edges of two clocks of one frequency do. -/
def EqualClocks (k : Slot) (moves : Nat → Instr) : Prop :=
  ∀ n d, movesIn moves (.evTick .c) n d ≤ movesIn moves (.evTick (.r k)) n d + 1
    ∧ movesIn moves (.evTick (.r k)) n d ≤ movesIn moves (.evTick .c) n d + 1

-- Invariants

/-- At most one select line is low (R136). -/
def Exclusive (s : State) : Prop := ¬(s.selected 0#1 = true ∧ s.selected 1#1 = true)

/-- The frame sequencer's registers agree: `BUSY` says that a frame is in progress (R24, R101), `BITCNT_C` counts the
bits left in it, `sck` is idle between frames, `RDY` is never set during one, and only a frame that has shifted its
eighth bit can be stalled (R106). -/
structure FrameCoherent (c : CNode) (cpol : Bool) : Prop where
  busy_iff    : c.busy = true ↔ c.fsState ≠ FS_IDLE
  bits_left   : (c.fsState = FS_DRIVE ∨ c.fsState = FS_SAMPLE) → 1 ≤ c.bitcntC.toNat ∧ c.bitcntC.toNat ≤ 8
  bits_done   : (c.fsState = FS_IDLE ∨ c.fsState = FS_COMPLETE) → c.bitcntC = 0#4
  sck_idle    : c.fsState = FS_IDLE → c.sck = cpol
  rdy_idle    : c.rdy = true → c.busy = false
  stall_state : c.stalledC = true → c.fsState = FS_COMPLETE

/-- Every FSM state register of `C` holds an assigned code, `SLOT` names a slot of the machine, and no settle count is
left in `CS_STABLE` (R21, R25, R26, R90). -/
structure CodesLegal (s : State) : Prop where
  fs   : fsAssigned s.c.fsState = true
  cs   : csAssigned s.c.csState = true
  poll : pollAssigned s.c.pState = true
  smp  : smpAssigned s.c.sState = true
  slot : s.cfg.hasSlot s.c.slot = true
  settled : s.c.csState = CS_STABLE → s.c.settleCnt = 0#32
  resp : ∀ k : Slot, respAssigned (s.rnode k).rState = true

/-- The bit count of a responder stays below 8, and the reserved and the unreachable fault bits read 0: bits 7:5, CONTENTION
and ILLEGAL_STATE of `FAULT_C`, bits 7:4 and ILLEGAL_STATE of `FAULT_R` (R31, R226, R266). -/
structure FaultsBounded (s : State) : Prop where
  bits   : ∀ k : Slot, (s.rnode k).bitcntR.toNat ≤ 7
  faultC : s.c.faultC &&& 0xE6#8 = 0#8
  faultR : ∀ k : Slot, (s.rnode k).faultR &&& 0xF4#8 = 0#8

/-- The registers that a reset loads from the configuration hold its values (R29, R33, R27, R32, R250). -/
structure ConfigLoaded (s : State) : Prop where
  ctrlC    : s.c.ctrlC = ctrlValue true s.cfg.cpol s.cfg.cpha false
  adcChsel : s.c.adcChsel = s.cfg.adcCh
  ctrlR    : ∀ k : Slot, (s.rnode k).ctrlR = ctrlValue false (s.cfg.slot k).cpol (s.cfg.slot k).cpha true
  edgeEn   : ∀ k : Slot, (s.rnode k).edgeEn = (s.cfg.slot k).edgeEn
  pwmPr    : ∀ k : Slot, (s.rnode k).pwmPr = (s.cfg.slot k).pwmPeriod

/-- The invariant of the machine. -/
structure Inv (s : State) : Prop where
  exclusive : Exclusive s
  frame     : FrameCoherent s.c s.cfg.cpol
  codes     : CodesLegal s
  faults    : FaultsBounded s
  config    : ConfigLoaded s

-- Operations in order

/-- Running operations one after another, stopping at the first that is refused. -/
def runOps : List Instr → State → Result
  | [], s => .next s
  | i :: is, s =>
    match exec i s with
    | .next t => runOps is t
    | .fault f => .fault f
    | .refused r => .refused r

/-- `n` bits of a frame where time is abstract: `FS.DRIVE` and `FS.SAMPLE`, `n` times (spec/95 notation `FRAME`). -/
def bitOps : Nat → List Instr
  | 0 => []
  | n + 1 => .fsDrive :: .fsSample :: bitOps n

/-- A frame where time is abstract: eight bits and the completion (spec/95 notation `FRAME`). -/
def frameOps : List Instr := bitOps 8 ++ [.fsComplete]

/-- A press of `pin` on `R_k`, serviced while held, and its release, serviced too (R190, spec/95 program P1). -/
def pressOps (k : Slot) (pin : Pin) : List Instr :=
  [.evPin k pin false, .respPindet k, .respIdle k, .respService k,
   .evPin k pin true, .respPindet k, .respIdle k, .respService k]

/-- `n` presses. -/
def presses (k : Slot) (pin : Pin) : Nat → List Instr
  | 0 => []
  | n + 1 => pressOps k pin ++ presses k pin n

/-- `n` steps of FSEQ alone, as ticks of C take them (R109, R243). -/
def fseqTicks : Nat → State → State
  | 0, s => s
  | n + 1, s => fseqTicks n (fseqStep s)

/-- `n` ticks of CSMUX alone (R132, R243). -/
def csmuxTicks : Nat → State → State
  | 0, s => s
  | n + 1, s => csmuxTicks n (csmuxStep s)

end Machine
end Sys2Proof
end

