-- ==== Sys2Proof/Laws/State.lean ====
section
/-! SUPPORT. The small lemmas of the state: what each update of a node leaves of every field, so that no later proof
unfolds a record update. -/

namespace Sys2Proof
namespace Machine

-- Slots: a 1-bit index is 0 or 1.

theorem slot_cases (k : Slot) : k = 0#1 ∨ k = 1#1 := by
  revert k; decide

@[simp] theorem slot_not_zero : ~~~(0#1) = 1#1 := by decide
@[simp] theorem slot_not_one : ~~~(1#1) = 0#1 := by decide
@[simp] theorem slot_not_ne (k : Slot) : ~~~k ≠ k := by revert k; decide
theorem slot_eq_or_not (k j : Slot) : j = k ∨ j = ~~~k := by revert k j; decide

@[simp] theorem rnode_zero (s : State) : s.rnode 0#1 = s.r0 := rfl
@[simp] theorem rnode_one (s : State) : s.rnode 1#1 = s.r1 := rfl

-- Replacing a responder node

section setRnode
variable (s : State) (k j : Slot) (r : RNode)

@[simp] theorem setRnode_zero : s.setRnode 0#1 r = { s with r0 := r } := rfl
@[simp] theorem setRnode_one : s.setRnode 1#1 r = { s with r1 := r } := rfl
@[simp] theorem setRnode_c : (s.setRnode k r).c = s.c := by unfold State.setRnode; split <;> rfl
@[simp] theorem setRnode_cfg : (s.setRnode k r).cfg = s.cfg := by unfold State.setRnode; split <;> rfl
@[simp] theorem setRnode_script : (s.setRnode k r).script = s.script := by
  unfold State.setRnode; split <;> rfl
@[simp] theorem setRnode_owed : (s.setRnode k r).owed = s.owed := by
  unfold State.setRnode; split <;> rfl
@[simp] theorem setRnode_drawIdx : (s.setRnode k r).drawIdx = s.drawIdx := by
  unfold State.setRnode; split <;> rfl
@[simp] theorem setRnode_result : (s.setRnode k r).result = s.result := by
  unfold State.setRnode; split <;> rfl
@[simp] theorem setRnode_resultStat : (s.setRnode k r).resultStat = s.resultStat := by
  unfold State.setRnode; split <;> rfl
@[simp] theorem setRnode_rnode_self : (s.setRnode k r).rnode k = r := by
  rcases slot_cases k with h | h <;> subst h <;> rfl
@[simp] theorem setRnode_rnode_other : (s.setRnode k r).rnode (~~~k) = s.rnode (~~~k) := by
  rcases slot_cases k with h | h <;> subst h <;> rfl
theorem setRnode_rnode : (s.setRnode k r).rnode j = if j = k then r else s.rnode j := by
  rcases slot_cases k with h | h <;> rcases slot_cases j with h' | h' <;> subst h <;> subst h' <;> rfl
@[simp] theorem setRnode_rnode_eq : s.setRnode k (s.rnode k) = s := by
  rcases slot_cases k with h | h <;> subst h <;> rfl

end setRnode

-- A step of one responder node

section mapR
variable (s : State) (k j : Slot) (f : RNode → RNode)

@[simp] theorem mapR_c : (s.mapR k f).c = s.c := setRnode_c ..
@[simp] theorem mapR_cfg : (s.mapR k f).cfg = s.cfg := setRnode_cfg ..
@[simp] theorem mapR_script : (s.mapR k f).script = s.script := setRnode_script ..
@[simp] theorem mapR_owed : (s.mapR k f).owed = s.owed := setRnode_owed ..
@[simp] theorem mapR_drawIdx : (s.mapR k f).drawIdx = s.drawIdx := setRnode_drawIdx ..
@[simp] theorem mapR_result : (s.mapR k f).result = s.result := setRnode_result ..
@[simp] theorem mapR_resultStat : (s.mapR k f).resultStat = s.resultStat := setRnode_resultStat ..
@[simp] theorem mapR_rnode_self : (s.mapR k f).rnode k = f (s.rnode k) := setRnode_rnode_self ..
@[simp] theorem mapR_rnode_other : (s.mapR k f).rnode (~~~k) = s.rnode (~~~k) := setRnode_rnode_other ..
theorem mapR_rnode : (s.mapR k f).rnode j = if j = k then f (s.rnode k) else s.rnode j :=
  setRnode_rnode ..

end mapR

-- A step of node C

section mapC
variable (s : State) (k : Slot) (f : CNode → CNode)

@[simp] theorem mapC_c : (s.mapC f).c = f s.c := rfl
@[simp] theorem mapC_cfg : (s.mapC f).cfg = s.cfg := rfl
@[simp] theorem mapC_r0 : (s.mapC f).r0 = s.r0 := rfl
@[simp] theorem mapC_r1 : (s.mapC f).r1 = s.r1 := rfl
@[simp] theorem mapC_script : (s.mapC f).script = s.script := rfl
@[simp] theorem mapC_owed : (s.mapC f).owed = s.owed := rfl
@[simp] theorem mapC_drawIdx : (s.mapC f).drawIdx = s.drawIdx := rfl
@[simp] theorem mapC_result : (s.mapC f).result = s.result := rfl
@[simp] theorem mapC_resultStat : (s.mapC f).resultStat = s.resultStat := rfl
@[simp] theorem mapC_rnode : (s.mapC f).rnode k = s.rnode k := rfl

end mapC

-- Faults and draws

section raise
variable (c : CNode) (r : RNode) (bit : Byte)

@[simp] theorem craise_faultC : (c.raise bit).faultC = c.faultC ||| bit := rfl
@[simp] theorem rraise_faultR : (r.raise bit).faultR = r.faultR ||| bit := rfl
@[simp] theorem craise_csN : (c.raise bit).csN = c.csN := rfl
@[simp] theorem craise_fsState : (c.raise bit).fsState = c.fsState := rfl
@[simp] theorem craise_csState : (c.raise bit).csState = c.csState := rfl
@[simp] theorem craise_pState : (c.raise bit).pState = c.pState := rfl
@[simp] theorem craise_slot : (c.raise bit).slot = c.slot := rfl
@[simp] theorem craise_srC : (c.raise bit).srC = c.srC := rfl
@[simp] theorem rraise_srR : (r.raise bit).srR = r.srR := rfl
@[simp] theorem rraise_bitcntR : (r.raise bit).bitcntR = r.bitcntR := rfl
@[simp] theorem rraise_rState : (r.raise bit).rState = r.rState := rfl
@[simp] theorem rraise_counter : (r.raise bit).counter = r.counter := rfl

end raise

section drew
variable (s : State) (n : Nat) (k : Slot)

@[simp] theorem drew_c : (s.drew n).c = s.c := rfl
@[simp] theorem drew_r0 : (s.drew n).r0 = s.r0 := rfl
@[simp] theorem drew_r1 : (s.drew n).r1 = s.r1 := rfl
@[simp] theorem drew_cfg : (s.drew n).cfg = s.cfg := rfl
@[simp] theorem drew_script : (s.drew n).script = s.script := rfl
@[simp] theorem drew_owed : (s.drew n).owed = s.owed := rfl
@[simp] theorem drew_drawIdx : (s.drew n).drawIdx = s.drawIdx + n := rfl
@[simp] theorem drew_rnode : (s.drew n).rnode k = s.rnode k := rfl

end drew

-- The select lines depend on the configuration and `CS_N` alone.

theorem selected_congr {s t : State} (k : Slot) (hcfg : t.cfg = s.cfg) (hcs : t.c.csN = s.c.csN) :
    t.selected k = s.selected k := by
  simp [State.selected, hcfg, hcs]

@[simp] theorem mapR_selected (s : State) (k j : Slot) (f : RNode → RNode) :
    (s.mapR k f).selected j = s.selected j := selected_congr j (by simp) (by simp)

@[simp] theorem drew_selected (s : State) (n : Nat) (k : Slot) : (s.drew n).selected k = s.selected k := rfl

theorem csLine_assert (n : BitVec 2) (k j : Slot) :
    csLine (n &&& ~~~lineMask k) j = (csLine n j && j != k) := by
  revert n k j; decide

theorem csLine_deassert (n : BitVec 2) (k j : Slot) :
    csLine (n ||| lineMask k) j = (csLine n j || j == k) := by
  revert n k j; decide

end Machine
end Sys2Proof
end

