-- ==== Sys2Proof/Laws/Ops.lean ====
section
/-! SUPPORT. One lemma per shared operation, which says everything the operation can do. -/

namespace Sys2Proof
namespace Machine

/-- An operation of a slot answers a next state exactly where the slot exists, and then it is `f s`. -/
theorem onSlot_next_iff {k : Slot} {s t : State} {f : State → State} :
    onSlot k s f = .next t ↔ s.cfg.hasSlot k = true ∧ t = f s := by
  unfold onSlot
  split
  · rename_i h
    exact ⟨fun e => ⟨h, (Host.Outcome.next.inj e).symm⟩, fun e => by rw [e.2]⟩
  · rename_i h
    exact ⟨fun e => (nomatch e), fun e => absurd e.1 h⟩

theorem onSlot_next {k : Slot} {s : State} (f : State → State) (h : s.cfg.hasSlot k = true) :
    onSlot k s f = .next (f s) := by simp [onSlot, h]

theorem onSlot_refused {k : Slot} {s : State} (f : State → State) (h : s.cfg.hasSlot k = false) :
    onSlot k s f = .refused .absentSlot := by simp [onSlot, h]

/-- A word of an FSM state takes the step in that state, holds in another, and raises ILLEGAL_STATE in none. -/
theorem atState_cases (reg code : Code) (a : Code → Bool) (g f : State → State) (s : State) :
    (reg = code ∧ atState reg code a g f s = f s)
      ∨ (reg ≠ code ∧ a reg = true ∧ atState reg code a g f s = s)
      ∨ (reg ≠ code ∧ a reg = false ∧ atState reg code a g f s = g s) := by
  unfold atState
  split
  · simp_all
  · split <;> simp_all

/-- A word that only its own unit invokes acts where the unit's code is assigned, and raises ILLEGAL_STATE elsewhere. -/
theorem ofUnit_cases (reg : Code) (a : Code → Bool) (g f : State → State) (s : State) :
    (a reg = true ∧ ofUnit reg a g f s = f s) ∨ (a reg = false ∧ ofUnit reg a g f s = g s) := by
  unfold ofUnit
  cases a reg <;> simp

/-- RESP's own step where its code is assigned. -/
theorem respOwn_assigned {k : Slot} {s : State} (f : State → State) (h : respAssigned (s.rnode k).rState = true) :
    respOwn k f s = f s := by simp [respOwn, ofUnit, h]

/-- RESP's own step where its code is not. -/
theorem respOwn_unassigned {k : Slot} {s : State} (f : State → State) (h : respAssigned (s.rnode k).rState = false) :
    respOwn k f s = State.illegalR k s := by simp [respOwn, ofUnit, h]

/-- A step of one variant is taken, raises ILLEGAL_STATE, or is none of the responder's. -/
theorem inVariant_cases (v : Variant) (k : Slot) (f : RNode → RNode) (s : State) :
    ((s.cfg.slot k).variant = v ∧ respAssigned (s.rnode k).rState = true ∧ inVariant v k f s = s.mapR k f)
      ∨ ((s.cfg.slot k).variant = v ∧ respAssigned (s.rnode k).rState = false
          ∧ inVariant v k f s = State.illegalR k s)
      ∨ ((s.cfg.slot k).variant ≠ v ∧ inVariant v k f s = s) := by
  unfold inVariant respOwn ofUnit
  cases h : respAssigned (s.rnode k).rState <;> split <;> simp_all

/-- A waiting step of POLL is taken, or the state stays. -/
theorem pollWhen_cases (cond : Bool) (f : State → State) (s : State) :
    (cond = true ∧ pollWhen cond f s = f s) ∨ (cond = false ∧ pollWhen cond f s = s) := by
  cases cond <;> simp [pollWhen]

/-- A write of `BUF_C` starts a frame, collides, or meets a stuck FSEQ. -/
theorem bufw_cases (c : CNode) (v : Byte) (d : BitVec 16) :
    (fsAssigned c.fsState = false ∧ c.bufw v d = c.raise ILLEGAL_STATE_C)
      ∨ (fsAssigned c.fsState = true ∧ c.busy = true ∧ c.bufw v d = c.raise WCOL)
      ∨ (fsAssigned c.fsState = true ∧ c.busy = false ∧ c.bufw v d =
          { c with srC := v, bitcntC := 8#4, divcntC := d, unselC := false, rdy := false, busy := true,
                   fsState := FS_DRIVE }) := by
  unfold CNode.bufw
  cases fsAssigned c.fsState <;> cases c.busy <;> simp

/-- What a completed frame leaves in a responder. -/
theorem complete_cases (r : RNode) :
    (r.rxf = true ∧ r.complete = { r.raise OVF with irqfRx := true })
      ∨ (r.rxf = false ∧ r.complete = { r with rxbufR := r.srR, rxf := true, irqfRx := true }) := by
  unfold RNode.complete
  cases r.rxf <;> simp

/-- What one bit shifted in leaves in a responder. -/
theorem shift_cases (r : RNode) (b : Bool) :
    (r.bitcntR = 7#4 ∧ r.shift b = RNode.complete { r with srR := shiftIn r.srR b, bitcntR := 0#4 })
      ∨ (r.bitcntR ≠ 7#4 ∧
          r.shift b = { r with srR := shiftIn r.srR b, bitcntR := r.bitcntR + 1#4 }) := by
  unfold RNode.shift
  split <;> simp_all

@[simp] theorem complete_srR (r : RNode) : r.complete.srR = r.srR := by
  unfold RNode.complete; split <;> rfl
@[simp] theorem complete_bitcntR (r : RNode) : r.complete.bitcntR = r.bitcntR := by
  unfold RNode.complete; split <;> rfl
@[simp] theorem complete_rState (r : RNode) : r.complete.rState = r.rState := by
  unfold RNode.complete; split <;> rfl
@[simp] theorem complete_counter (r : RNode) : r.complete.counter = r.counter := by
  unfold RNode.complete; split <;> rfl
@[simp] theorem shift_srR (r : RNode) (b : Bool) : (r.shift b).srR = shiftIn r.srR b := by
  unfold RNode.shift; split <;> simp
@[simp] theorem shift_rState (r : RNode) (b : Bool) : (r.shift b).rState = r.rState := by
  unfold RNode.shift; split <;> simp
@[simp] theorem shift_counter (r : RNode) (b : Bool) : (r.shift b).counter = r.counter := by
  unfold RNode.shift; split <;> simp

/-- A staged reply, or a collision. -/
theorem rbufw_cases (r : RNode) (v : Byte) :
    (r.bitcntR = 0#4 ∧ r.bufw v = { r with srR := v })
      ∨ (r.bitcntR ≠ 0#4 ∧ r.bufw v = r.raise WCOL_R) := by
  unfold RNode.bufw
  split <;> simp_all

/-- Asserting a line, in the two cases of the rule. -/
theorem assertLine_cases (k : Slot) (s : State) :
    (s.otherSelected k = true ∧ assertLine k s = s.mapC fun c => c.inFrame.raise CS_EXCL)
      ∨ (s.otherSelected k = false ∧
          assertLine k s = s.mapC fun c => { c.inFrame with csN := c.csN &&& ~~~lineMask k }) := by
  unfold assertLine
  split <;> simp_all

/-- Deasserting a line, in the two cases of the rule. -/
theorem deassertLine_cases (k : Slot) (s : State) :
    (csLine s.c.csN k = true ∧ deassertLine k s = s.mapC CNode.inFrame)
      ∨ (csLine s.c.csN k = false ∧ deassertLine k s = s.mapC fun c =>
          { c.inFrame with csN := c.csN ||| lineMask k, settleCnt := BitVec.ofNat 32 s.cfg.settleTicks,
                           csState := CS_SETTLING }) := by
  unfold deassertLine
  split <;> simp_all

@[simp] theorem inFrame_csN (c : CNode) : c.inFrame.csN = c.csN := by
  unfold CNode.inFrame; split <;> rfl

/-- With exactly one slot selected, a sample edge shifts C and that responder by one bit each, and nothing else. -/
theorem sampleEdge_one (s : State) (k : Slot) (h : s.selected k = true) (h' : s.selected (~~~k) = false) :
    sampleEdge s =
      ({ s with c := { s.c with srC := shiftIn s.c.srC (s.rnode k).misoDrv } } : State).setRnode k
        ((s.rnode k).shift (s.c.srC.getLsbD 7)) := by
  rcases slot_cases k with hk | hk <;> subst hk <;>
    simp_all [sampleEdge, State.miso]

@[simp] theorem sampleEdge_cfg (s : State) : (sampleEdge s).cfg = s.cfg := rfl
@[simp] theorem sampleEdge_script (s : State) : (sampleEdge s).script = s.script := rfl
@[simp] theorem sampleEdge_owed (s : State) : (sampleEdge s).owed = s.owed := rfl
@[simp] theorem sampleEdge_result (s : State) : (sampleEdge s).result = s.result := rfl
@[simp] theorem sampleEdge_csN (s : State) : (sampleEdge s).c.csN = s.c.csN := by
  simp only [sampleEdge]; split <;> split <;> rfl

end Machine
end Sys2Proof
end

