-- ==== Sys2Proof/Laws/Step.lean ====
section
/-! SUPPORT. What a step can be, said once: an owed operation, a pending item, or a free move. -/

namespace Sys2Proof
namespace Machine

/-- Nothing owed is due exactly where every owed operation waits. -/
theorem takeDue_eq_none {s : State} : ∀ {l : List Instr}, s.takeDue l = none ↔ l.all s.waits = true
  | [] => by simp [State.takeDue]
  | i :: rest => by
    have ih := takeDue_eq_none (s := s) (l := rest)
    cases h : s.waits i <;> simp_all [State.takeDue]

/-- The first owed operation that waits no longer is the one that is due. -/
theorem takeDue_append {s : State} {i : Instr} {after : List Instr} (hi : s.waits i = false) :
    ∀ {before : List Instr}, before.all s.waits = true → s.takeDue (before ++ i :: after) = some (i, before ++ after)
  | [], _ => by simp [State.takeDue, hi]
  | j :: rest, h => by
    rw [List.all_cons, Bool.and_eq_true] at h
    simp [State.takeDue, h.1, takeDue_append hi h.2]

section
variable {s : State} (hok : s.cfg.ok = true)
include hok

/-- An owed operation that waits no longer is the next step. -/
theorem step_due {before after : List Instr} {i : Instr} (ho : s.owed = before ++ i :: after)
    (hb : before.all s.waits = true) (hi : s.waits i = false) : step s = exec i { s with owed := before ++ after } := by
  simp [step, nextStep, hok, ho, takeDue_append hi hb]

/-- With nothing due, the first pending item is the next step. -/
theorem step_item {item : ScriptItem} {rest : List ScriptItem} (hd : s.noneDue = true) (hs : s.script = item :: rest) :
    step s = runItem item rest s := by
  simp [step, nextStep, hok, takeDue_eq_none.mpr hd, hs]

/-- With nothing due and nothing pending, the next step is a free move. -/
theorem step_free (hd : s.noneDue = true) (hs : s.script = []) : step s = freeStep (isMove s.cfg.time) s := by
  simp [step, nextStep, hok, takeDue_eq_none.mpr hd, hs]

end

/-- A free step that answers a next state ran the move or made none. -/
theorem freeStep_cases {allowed : Instr → Bool} {s t : State} (h : freeStep allowed s = .next t) :
    (allowed (Config.freeMove s.drawIdx) = true ∧ (Config.freeMove s.drawIdx).wellFormed s.cfg = true
        ∧ exec (Config.freeMove s.drawIdx) (s.drew 1) = .next t)
      ∨ t = s.drew 1 := by
  unfold freeStep at h
  split at h
  · rename_i hc
    rw [Bool.and_eq_true] at hc
    exact .inl ⟨hc.1, hc.2, h⟩
  · exact .inr (Host.Outcome.next.inj h).symm

/-- The state in which a step runs its operation: `s` but for the pending and the owed items and the draws used. -/
abbrev State.taken (s : State) (script : List ScriptItem) (owed : List Instr) (n : Nat) : State :=
  { s with script := script, owed := owed, drawIdx := n }

/-- A step that answers a next state ran an operation, served a read, or changed nothing but the items. -/
theorem step_cases {s t : State} (h : step s = .next t) :
    s.cfg.ok = true ∧ ∃ script owed n,
      (∃ i, exec i (s.taken script owed n) = .next t)
        ∨ (∃ node idx, observe node idx (s.taken script owed n) = .next t)
        ∨ t = s.taken script owed n := by
  unfold step at h
  split at h
  · rename_i hok
    refine ⟨hok, ?_⟩
    have free : ∀ allowed, freeStep allowed s = .next t → ∃ script owed n,
        (∃ i, exec i (s.taken script owed n) = .next t)
          ∨ (∃ node idx, observe node idx (s.taken script owed n) = .next t) ∨ t = s.taken script owed n := by
      intro allowed hf
      rcases freeStep_cases hf with ⟨_, _, he⟩ | e
      · exact ⟨s.script, s.owed, s.drawIdx + 1, .inl ⟨_, he⟩⟩
      · exact ⟨s.script, s.owed, s.drawIdx + 1, .inr (.inr e)⟩
    unfold nextStep at h
    split at h
    · rename_i i others _
      exact ⟨s.script, others, s.drawIdx, .inl ⟨i, h⟩⟩
    · split at h
      · exact free _ h
      · rename_i item rest _
        cases item with
        | op w p =>
          simp only [runItem] at h
          split at h
          · rename_i i _
            exact ⟨rest, s.owing i, s.drawIdx, .inl ⟨i, h⟩⟩
          · cases h
        | invoked w =>
          simp only [runItem] at h
          repeat' split at h
          · exact ⟨rest, s.owed, s.drawIdx, .inr (.inr (Host.Outcome.next.inj h).symm)⟩
          all_goals cases h
        | run fsm code =>
          simp only [runItem, runUntil] at h
          repeat' split at h
          · exact ⟨rest, s.owed, s.drawIdx, .inr (.inr (Host.Outcome.next.inj h).symm)⟩
          · exact free _ h
          · cases h
        | regRead node idx => exact ⟨rest, s.owed, s.drawIdx, .inr (.inl ⟨node, idx, h⟩)⟩
        | regWrite node idx v => cases h
  · cases h

/-- A read through the observation interface that is served. -/
theorem observe_next {node : Node} {idx : Byte} {s t : State} (h : observe node idx s = .next t) :
    t = { s.afterRegRead node idx with result := (s.regValue node idx).setWidth 10 } := by
  unfold observe at h
  cases node with
  | c => exact (Host.Outcome.next.inj h).symm
  | r k =>
    simp only at h
    split at h
    · exact (Host.Outcome.next.inj h).symm
    · cases h

end Machine
end Sys2Proof
end

