-- ==== Sys2Proof/Laws/Moves.lean ====
section
/-! SUPPORT. Everything an operation other than a reset can do, said once: its effect is a chain of the moves listed here,
each with the condition under which it is made. A property that every move keeps is kept by every operation. -/

namespace Sys2Proof
namespace Machine

/-- What one move does to a responder node of slot configuration `sc`; `csn` is the level of its select line. -/
inductive RMove (cfg : Config) (sc : SlotConfig) (csn : Bool) : RNode → RNode → Prop where
  | illegal {r} (h : respAssigned r.rState = false) : RMove cfg sc csn r (r.raise ILLEGAL_STATE_R)
  | shift (r b) : RMove cfg sc csn r (r.shift b)
  | complete (r) : RMove cfg sc csn r r.complete
  | csedge (r) : RMove cfg sc csn r (r.csedge csn)
  | bufr (r) : RMove cfg sc csn r r.bufr
  | bufw (r v) : RMove cfg sc csn r (r.bufw v)
  | irqclr (r m) : RMove cfg sc csn r (r.irqclr m)
  | pindet {r} (h : respAssigned r.rState = true) : RMove cfg sc csn r r.pindet
  | setPin (r p l) : RMove cfg sc csn r (r.setPin p l)
  | count {r} (h : respAssigned r.rState = true) (v) : RMove cfg sc csn r { r with counter := v }
  | show {r} (h : respAssigned r.rState = true) (v) : RMove cfg sc csn r { r with ledR := v }
  | pwmsplit {r} (h : respAssigned r.rState = true) (d) : RMove cfg sc csn r (r.pwmsplit d)
  | enter {r} (h : r.rState = R_IDLE) : RMove cfg sc csn r r.enterService
  | leave {r} (h : r.rState = R_SERVICE) : RMove cfg sc csn r r.leaveService

/-- The successors of a POLL state that POLL reaches by a jump alone (R166). -/
inductive PollJump (s : State) : Code → Code → Prop where
  | guard : PollJump s P_GUARD P_SAMPLE
  | sample : PollJump s P_SAMPLE P_EXCL
  | excl : PollJump s P_EXCL P_SELECT
  | select : PollJump s P_SELECT P_TXDATA
  | txdata : PollJump s P_TXDATA (if (s.cfg.slot s.c.slot).polled then P_WAITDATA else P_SKIP)
  | waitdata : PollJump s P_WAITDATA P_DESELECT
  | deselect : PollJump s P_DESELECT P_SETTLE
  | settle : PollJump s P_SETTLE P_RESELECT
  | reselect : PollJump s P_RESELECT P_TXSENT
  | txsent : PollJump s P_TXSENT P_WAITREPLY
  | waitreply : PollJump s P_WAITREPLY P_RECEIVE
  | receive : PollJump s P_RECEIVE P_DISPLAY
  | display : PollJump s P_DISPLAY P_NEXT
  | skip : PollJump s P_SKIP P_NEXT

/-- One move of the machine. -/
inductive Move : State → State → Prop where
  | own (s n res st) : Move s { s with drawIdx := n, result := res, resultStat := st }
  | illegal {s} (h : fsAssigned s.c.fsState = false ∨ csAssigned s.c.csState = false
        ∨ pollAssigned s.c.pState = false ∨ smpAssigned s.c.sState = false) : Move s s.illegalC
  | idle {s} (h : s.c.fsState = FS_IDLE) : Move s (fsIdle s)
  | present {s} (h : s.c.fsState = FS_DRIVE ∨ s.c.fsState = FS_SAMPLE) (l b d) :
      Move s { s with c := { s.c with sck := l, mosi := b, divcntC := d } }
  | edge {s} (hs : s.c.stalledC = false) (h : s.c.fsState = FS_DRIVE) :
      Move s { sampleEdge s with
        c := { (sampleEdge s).c with divcntC := s.divReload, fsState := FS_SAMPLE } }
  | bit {s} (hs : s.c.stalledC = false) (h : s.c.fsState = FS_SAMPLE) (hb : s.c.bitcntC - 1#4 ≠ 0#4) (l d) :
      Move s { s with
        c := { s.c with sck := l, bitcntC := s.c.bitcntC - 1#4, divcntC := d, fsState := FS_DRIVE } }
  | lastBit {s} (hs : s.c.stalledC = false) (h : s.c.fsState = FS_SAMPLE) (hb : s.c.bitcntC - 1#4 = 0#4) (l) :
      Move s { s with c := { s.c with sck := l, bitcntC := 0#4, fsState := FS_COMPLETE } }
  | complete {s} (hs : s.c.stalledC = false) (h : s.c.fsState = FS_COMPLETE) :
      Move s { s with c := s.c.completeFrame s.cfg.cpol }
  | stall {s} (h : s.c.fsState = FS_COMPLETE) : Move s { s with c := { s.c with stalledC := true } }
  | write (s v) : Move s (fsBufw v s)
  | read (s) : Move s { s with c := s.c.bufr }
  | settleTick {s} (h : s.c.csState = CS_SETTLING) (n) : Move s { s with c := { s.c with settleCnt := n } }
  | settled {s} (h : s.c.csState = CS_SETTLING) :
      Move s { s with c := { s.c with settleCnt := 0#32, csState := CS_STABLE } }
  | select {s} (h : s.c.csState = CS_STABLE) (k) : Move s (assertLine k s)
  | deselect {s} (h : s.c.csState = CS_STABLE) (k) : Move s (deassertLine k s)
  | guardTick (s n) : Move s { s with c := { s.c with guardCnt := n } }
  | jump {s code next} (h : s.c.pState = code) (hj : PollJump s code next) :
      Move s { s with c := { s.c with pState := next } }
  | nextSlot {s} (h : s.c.pState = P_NEXT) : Move s (pollNext s)
  | endPulse (s) : Move s { s with c := s.c.endPulse }
  | startAdc (s) : Move s (smpStart s)
  | sample {s} (h : smpAssigned s.c.sState = true) : Move s (smpIsr s)
  | adcDone (s v) : Move s { s with c := { s.c with adres := v, adcBusy := false, adif := true } }
  | reply (s v) : Move s { s with c := { s.c with reply := v } }
  | display (s v) : Move s { s with c := { s.c with ledC := v } }
  | responder (s k r) (h : RMove s.cfg (s.cfg.slot k) (csLine s.c.csN k) (s.rnode k) r) : Move s (s.setRnode k r)

/-- A chain of moves. -/
abbrev Moves : State → State → Prop := Relation.ReflTransGen Move

/-- A chain of moves of one responder node. -/
abbrev RMoves (cfg : Config) (sc : SlotConfig) (csn : Bool) : RNode → RNode → Prop :=
  Relation.ReflTransGen (RMove cfg sc csn)

/-- What every move keeps, a chain of moves keeps. -/
theorem Moves.keep {P : State → Prop} (hP : ∀ s t, P s → Move s t → P t) {s t : State} (h : Moves s t) (hs : P s) :
    P t := by
  induction h with
  | refl => exact hs
  | tail _ m ih => exact hP _ _ ih m

/-- A choice is a chain of moves where both of its sides are. -/
theorem Moves.ite {p : Prop} [Decidable p] {s a b : State} (ha : p → Moves s a) (hb : ¬p → Moves s b) :
    Moves s (if p then a else b) := by
  split
  · exact ha ‹_›
  · exact hb ‹_›

theorem setRnode_setRnode (s : State) (k : Slot) (r r' : RNode) :
    (s.setRnode k r).setRnode k r' = s.setRnode k r' := by
  rcases slot_cases k with e | e <;> subst e <;> rfl

/-- A chain of moves of a responder node is a chain of moves of the machine. -/
theorem Moves.ofR {s : State} {k : Slot} {r : RNode}
    (h : RMoves s.cfg (s.cfg.slot k) (csLine s.c.csN k) (s.rnode k) r) : Moves s (s.setRnode k r) := by
  induction h with
  | refl => rw [setRnode_rnode_eq]
  | tail _ m ih =>
    refine ih.tail ?_
    have := Move.responder (s.setRnode k _) k _ (by simpa using m)
    rwa [setRnode_setRnode] at this

theorem Moves.mapR {s : State} {k : Slot} {f : RNode → RNode}
    (h : RMoves s.cfg (s.cfg.slot k) (csLine s.c.csN k) (s.rnode k) (f (s.rnode k))) : Moves s (s.mapR k f) :=
  Moves.ofR h

section responder
variable (cfg : Config) (sc : SlotConfig) (csn : Bool) (r : RNode)

theorem hEdge_moves (h : respAssigned r.rState = true) : RMoves cfg sc csn r r.hEdge :=
  .tail (.single (.count h r.adjusted)) (.irqclr _ 0b01#8)

theorem hRxDisplay_moves (h : respAssigned r.rState = true) : RMoves cfg sc csn r r.hRxDisplay :=
  .tail (.tail (.tail (.single (.bufr r)) (.show (r := r.bufr) h r.rxbufR)) (.bufw _ r.counter)) (.irqclr _ 0b10#8)

theorem hRxPwm_moves (h : respAssigned r.rState = true) : RMoves cfg sc csn r (r.hRxPwm cfg sc) :=
  .tail (.tail (.single (.bufr r)) (.pwmsplit (r := r.bufr) h _)) (.irqclr _ 0b10#8)

theorem idle_moves (v : Variant) (h : r.rState = R_IDLE) : RMoves cfg sc csn r (r.idle v) := by
  unfold RNode.idle; split
  · exact .single (.enter h)
  · exact .refl

theorem serviceEdge_moves (v : Variant) (h : respAssigned r.rState = true) :
    RMoves cfg sc csn r (r.serviceEdge v) := by
  unfold RNode.serviceEdge; split
  · exact hEdge_moves _ _ _ _ h
  · exact .refl

theorem serviceRx_moves (h : respAssigned r.rState = true) : RMoves cfg sc csn r (r.serviceRx cfg sc) := by
  unfold RNode.serviceRx; repeat' split
  · exact hRxDisplay_moves _ _ _ _ h
  · exact hRxPwm_moves _ _ _ _ h
  · exact .refl

@[simp] theorem bufw_rState (v : Byte) : (r.bufw v).rState = r.rState := by
  unfold RNode.bufw; split <;> rfl
@[simp] theorem serviceEdge_rState (v : Variant) : (r.serviceEdge v).rState = r.rState := by
  unfold RNode.serviceEdge; split <;> rfl
@[simp] theorem serviceRx_rState : (r.serviceRx cfg sc).rState = r.rState := by
  unfold RNode.serviceRx; repeat' split
  · simp [RNode.hRxDisplay, RNode.irqclr, RNode.bufr]
  · rfl
  · rfl

theorem service_moves (h : r.rState = R_SERVICE) : RMoves cfg sc csn r (r.service cfg sc) :=
  have ha : respAssigned r.rState = true := by rw [h]; decide
  .tail ((serviceEdge_moves cfg sc csn r _ ha).trans (serviceRx_moves _ _ _ _ (by simpa using ha)))
    (.leave (by simpa using h))

end responder

section fseq
variable {s : State}

theorem fsDrive_moves (hs : s.c.stalledC = false) (h : s.c.fsState = FS_DRIVE) : Moves s (fsDrive s) := by
  unfold fsDrive; split
  · exact .single (.present (.inl h) _ _ _)
  · exact .tail (.single (.present (.inl h) _ _ s.c.divcntC)) (.edge hs h)

theorem fsSample_moves (hs : s.c.stalledC = false) (h : s.c.fsState = FS_SAMPLE) : Moves s (fsSample s) := by
  unfold fsSample; repeat' split
  · exact .single (.present (.inr h) _ s.c.mosi _)
  · exact .single (.lastBit hs h ‹_› _)
  · exact .single (.bit hs h ‹_› _ _)

theorem drew_moves (s : State) (n : Nat) : Moves s (s.drew n) := .single (.own s _ _ _)

theorem fsComplete_moves (hs : s.c.stalledC = false) (h : s.c.fsState = FS_COMPLETE) :
    Moves s (fsComplete s) := by
  unfold fsComplete; split
  · refine Relation.ReflTransGen.trans ?_ (drew_moves _ 1)
    split
    · exact .single (.stall h)
    · exact .single (.complete hs h)
  · exact .single (.complete hs h)

end fseq

section cfsm
variable {s : State}

/-- A word of an FSM of `C`: its step where the unit is in the state, else a hold or ILLEGAL_STATE. -/
theorem atState_moves {reg code : Code} {a : Code → Bool} {f : State → State} (hf : reg = code → Moves s (f s))
    (hi : a reg = false → fsAssigned s.c.fsState = false ∨ csAssigned s.c.csState = false
      ∨ pollAssigned s.c.pState = false ∨ smpAssigned s.c.sState = false) :
    Moves s (atState reg code a State.illegalC f s) := by
  rcases atState_cases reg code a State.illegalC f s with ⟨h, e⟩ | ⟨_, _, e⟩ | ⟨_, h, e⟩ <;> rw [e]
  · exact hf h
  · exact .single (.illegal (hi h))

theorem fseqAt_moves {code : Code} {f : State → State}
    (hf : s.c.stalledC = false → s.c.fsState = code → Moves s (f s)) : Moves s (fseqAt code f s) := by
  unfold fseqAt; split
  · exact .refl
  · exact atState_moves (hf (by simpa using ‹¬s.c.stalledC = true›)) .inl

theorem csSettling_moves (h : s.c.csState = CS_SETTLING) : Moves s (csSettling s) := by
  unfold csSettling; split
  · by_cases hc : 1#32 < s.c.settleCnt
    · have := Move.settleTick h (s.c.settleCnt - 1#32)
      simpa [State.mapC, hc] using Relation.ReflTransGen.single this
    · have := Move.settled h
      simpa [State.mapC, hc] using Relation.ReflTransGen.single this
  · exact .refl

theorem csAssert_moves (s : State) (k : Slot) : Moves s (csAssert k s) := by
  unfold csAssert; split
  · exact .single (.select ‹_› k)
  · exact .refl

theorem csDeassert_moves (s : State) (k : Slot) : Moves s (csDeassert k s) := by
  unfold csDeassert; split
  · exact .single (.deselect ‹_› k)
  · exact .refl

theorem smpIdle_moves (h : smpAssigned s.c.sState = true) : Moves s (smpIdle s) := by
  unfold smpIdle; split
  · exact .single (.sample h)
  · exact .refl

@[simp] theorem inFrame_pState (c : CNode) : c.inFrame.pState = c.pState := by
  unfold CNode.inFrame; split <;> rfl
@[simp] theorem inFrame_slot (c : CNode) : c.inFrame.slot = c.slot := by
  unfold CNode.inFrame; split <;> rfl
@[simp] theorem bufw_pState (c : CNode) (v : Byte) (d : BitVec 16) : (c.bufw v d).pState = c.pState := by
  unfold CNode.bufw; repeat' split
  all_goals rfl
@[simp] theorem bufw_slot (c : CNode) (v : Byte) (d : BitVec 16) : (c.bufw v d).slot = c.slot := by
  unfold CNode.bufw; repeat' split
  all_goals rfl
@[simp] theorem csAssert_pState (k : Slot) : (csAssert k s).c.pState = s.c.pState := by
  unfold csAssert assertLine; repeat' split
  all_goals simp
@[simp] theorem csDeassert_pState (k : Slot) : (csDeassert k s).c.pState = s.c.pState := by
  unfold csDeassert deassertLine; repeat' split
  all_goals simp

theorem pollWhen_moves {c : Bool} {f : State → State} (h : c = true → Moves s (f s)) : Moves s (pollWhen c f s) := by
  cases c
  · exact .refl
  · exact h rfl

theorem pollGuard_moves (h : s.c.pState = P_GUARD) : Moves s (pollGuard s) :=
  pollWhen_moves fun _ => by
    split
    · exact .single (.jump h .guard)
    · exact .single (.guardTick s _)
theorem pollSample_moves (h : s.c.pState = P_SAMPLE) : Moves s (pollSample s) := by
  unfold pollSample; split
  · exact .single (.jump h .sample)
  · exact .tail (.single (.startAdc s)) (.jump h .sample)
theorem pollExcl_moves (h : s.c.pState = P_EXCL) : Moves s (pollExcl s) :=
  pollWhen_moves fun _ => by
    split
    · exact .trans (.single (.endPulse s)) (csDeassert_moves _ _)
    · exact .tail (.single (.endPulse s)) (.jump h .excl)
theorem pollSelect_moves (h : s.c.pState = P_SELECT) : Moves s (pollSelect s) :=
  pollWhen_moves fun _ => .tail (csAssert_moves s _) (.jump (by simpa using h) .select)
theorem pollTxdata_moves (h : s.c.pState = P_TXDATA) : Moves s (pollTxdata s) := by
  have hj : PollJump (fsBufw s.c.sampled s) P_TXDATA
      (if (s.cfg.slot s.c.slot).polled then P_WAITDATA else P_SKIP) := by
    have := PollJump.txdata (s := fsBufw s.c.sampled s)
    simpa only [fsBufw, mapC_cfg, mapC_c, bufw_slot] using this
  exact .tail (.single (.write s _)) (.jump (by simpa [fsBufw] using h) hj)
theorem pollWaitdata_moves (h : s.c.pState = P_WAITDATA) : Moves s (pollWaitdata s) :=
  pollWhen_moves fun _ => .tail (.single (.read s)) (.jump h .waitdata)
theorem pollDeselect_moves (h : s.c.pState = P_DESELECT) : Moves s (pollDeselect s) :=
  pollWhen_moves fun _ => .tail (csDeassert_moves s _) (.jump (by simpa using h) .deselect)
theorem pollSettle_moves (h : s.c.pState = P_SETTLE) : Moves s (pollSettle s) :=
  pollWhen_moves fun _ => .single (.jump h .settle)
theorem pollReselect_moves (h : s.c.pState = P_RESELECT) : Moves s (pollReselect s) :=
  pollWhen_moves fun _ => .tail (csAssert_moves s _) (.jump (by simpa using h) .reselect)
theorem pollTxsent_moves (h : s.c.pState = P_TXSENT) : Moves s (pollTxsent s) :=
  .tail (.single (.write s _)) (.jump (by simpa [fsBufw] using h) .txsent)
theorem pollWaitreply_moves (h : s.c.pState = P_WAITREPLY) : Moves s (pollWaitreply s) :=
  pollWhen_moves fun _ => .single (.jump h .waitreply)
theorem pollReceive_moves (h : s.c.pState = P_RECEIVE) : Moves s (pollReceive s) :=
  .tail (.tail (.single (.read s)) (.reply _ s.c.rxbufC)) (.jump h .receive)
theorem pollDisplay_moves (h : s.c.pState = P_DISPLAY) : Moves s (pollDisplay s) := by
  unfold pollDisplay; split
  · exact .tail (.single (.display s s.c.reply)) (.jump h .display)
  · exact .single (.jump h .display)
theorem pollSkip_moves (h : s.c.pState = P_SKIP) : Moves s (pollSkip s) :=
  pollWhen_moves fun _ => .tail (.single (.read s)) (.jump h .skip)

theorem pollAt_moves {code : Code} {f : State → State} (hf : s.c.pState = code → Moves s (f s)) :
    Moves s (pollAt code f s) := atState_moves hf (.inr ∘ .inr ∘ .inl)

theorem fseqStep_moves (s : State) : Moves s (fseqStep s) := by
  unfold fseqStep; repeat' split
  · exact .refl
  · exact .single (.idle ‹_›)
  · exact fsDrive_moves (by simpa using ‹¬s.c.stalledC = true›) ‹_›
  · exact fsSample_moves (by simpa using ‹¬s.c.stalledC = true›) ‹_›
  · exact fsComplete_moves (by simpa using ‹¬s.c.stalledC = true›) ‹_›
  · refine .single (.illegal (.inl ?_))
    generalize s.c.fsState = x at *
    revert x; decide

theorem csmuxStep_moves (s : State) : Moves s (csmuxStep s) := by
  unfold csmuxStep; repeat' split
  · exact .refl
  · exact csSettling_moves ‹_›
  · refine .single (.illegal (.inr (.inl ?_)))
    generalize s.c.csState = x at *
    revert x; decide

/-- The codes that R85 assigns to POLL. -/
theorem pollAssigned_cases : ∀ c : Code, pollAssigned c = true →
    c = P_GUARD ∨ c = P_SAMPLE ∨ c = P_EXCL ∨ c = P_SELECT ∨ c = P_TXDATA ∨ c = P_WAITDATA ∨ c = P_DESELECT ∨ c = P_SETTLE
      ∨ c = P_RESELECT ∨ c = P_TXSENT ∨ c = P_WAITREPLY ∨ c = P_RECEIVE ∨ c = P_DISPLAY ∨ c = P_NEXT ∨ c = P_SKIP := by
  decide

theorem pollStep_moves (s : State) : Moves s (pollStep s) := by
  unfold pollStep
  refine Moves.ite pollGuard_moves fun h0 => ?_
  refine Moves.ite pollSample_moves fun h1 => ?_
  refine Moves.ite pollExcl_moves fun h2 => ?_
  refine Moves.ite pollSelect_moves fun h3 => ?_
  refine Moves.ite pollTxdata_moves fun h4 => ?_
  refine Moves.ite pollWaitdata_moves fun h5 => ?_
  refine Moves.ite pollDeselect_moves fun h6 => ?_
  refine Moves.ite pollSettle_moves fun h7 => ?_
  refine Moves.ite pollReselect_moves fun h8 => ?_
  refine Moves.ite pollTxsent_moves fun h9 => ?_
  refine Moves.ite pollWaitreply_moves fun h10 => ?_
  refine Moves.ite pollReceive_moves fun h11 => ?_
  refine Moves.ite pollDisplay_moves fun h12 => ?_
  refine Moves.ite (fun h => .single (.nextSlot h)) fun h13 => ?_
  refine Moves.ite pollSkip_moves fun h14 => ?_
  refine .single (.illegal (.inr (.inr (.inl ?_))))
  by_contra h
  have := pollAssigned_cases _ (by simpa using h)
  simp_all only [or_self]

theorem tickC_moves (s : State) : Moves s (tickC s) :=
  .trans (.trans (.trans (.single (.endPulse s)) (fseqStep_moves _)) (csmuxStep_moves _)) (pollStep_moves _)

end cfsm

section rfsm
variable {s : State} {k : Slot}

theorem respAt_moves {code : Code} {f : RNode → RNode}
    (hf : (s.rnode k).rState = code →
      RMoves s.cfg (s.cfg.slot k) (csLine s.c.csN k) (s.rnode k) (f (s.rnode k))) :
    Moves s (respAt k code f s) := by
  unfold respAt
  rcases atState_cases (s.rnode k).rState code respAssigned (State.illegalR k) (fun s => s.mapR k f) s with
    ⟨h, e⟩ | ⟨_, _, e⟩ | ⟨_, h, e⟩ <;> rw [e]
  · exact Moves.mapR (hf h)
  · exact Moves.mapR (f := (·.raise ILLEGAL_STATE_R)) (.single (.illegal h))

theorem respOwn_moves {f : State → State} (hf : respAssigned (s.rnode k).rState = true → Moves s (f s)) :
    Moves s (respOwn k f s) := by
  rcases ofUnit_cases (s.rnode k).rState respAssigned (State.illegalR k) f s with ⟨h, e⟩ | ⟨h, e⟩ <;>
    rw [respOwn, e]
  · exact hf h
  · exact Moves.mapR (f := (·.raise ILLEGAL_STATE_R)) (.single (.illegal h))

theorem inVariant_moves {v : Variant} {f : RNode → RNode} (hf : respAssigned (s.rnode k).rState = true →
      RMoves s.cfg (s.cfg.slot k) (csLine s.c.csN k) (s.rnode k) (f (s.rnode k))) :
    Moves s (inVariant v k f s) := by
  rcases inVariant_cases v k f s with ⟨_, h, e⟩ | ⟨_, h, e⟩ | ⟨_, e⟩ <;> rw [e]
  · exact Moves.mapR (hf h)
  · exact Moves.mapR (f := (·.raise ILLEGAL_STATE_R)) (.single (.illegal h))

theorem respStep_moves (s : State) (k : Slot) : Moves s (respStep k s) := by
  unfold respStep; repeat' split
  · exact Moves.mapR (idle_moves _ _ _ _ _ ‹_›)
  · exact Moves.mapR (service_moves _ _ _ _ ‹_›)
  · refine Moves.mapR (f := (·.raise ILLEGAL_STATE_R)) (.single (.illegal ?_))
    generalize (s.rnode k).rState = x at *
    revert x; decide

theorem tickR_moves (s : State) (k : Slot) : Moves s (tickR k s) := by
  refine .trans (Moves.mapR (k := k) (f := (·.csedge (csLine s.c.csN k))) (.single (.csedge _)))
    (.trans (inVariant_moves (v := .counterDisplay) (k := k) (f := RNode.pindet) fun h => .single (.pindet h)) ?_)
  refine .trans ?_ (drew_moves _ 1)
  split
  · exact respStep_moves _ k
  · exact .refl

end rfsm

/-- A chain of moves of an operation of a slot. -/
theorem onSlot_moves {k : Slot} {s t : State} {f : State → State} (h : onSlot k s f = .next t)
    (hf : Moves s (f s)) : Moves s t := by
  rw [(onSlot_next_iff.mp h).2]; exact hf

theorem endDelay_moves (s : State) (delay : DelayUnit) : Moves s (endDelay delay s) := by
  unfold endDelay; repeat' split
  · exact .single (.settled ‹_›)
  · exact .refl
  · exact .tail (.single (.guardTick s 0#32)) (.jump ‹_› .guard)
  · exact .refl

theorem evDeliver_moves (s : State) (delay : Option DelayUnit) : Moves s (evDeliver delay s) := by
  unfold evDeliver; repeat' split
  · exact .refl
  · exact endDelay_moves s _
  · exact (endDelay_moves s _).trans (drew_moves _ 1)
  · exact (endDelay_moves s _).trans (drew_moves _ 1)
  · exact (endDelay_moves s _).trans (endDelay_moves _ _)

/-- An operation other than a reset that answers a next state makes a chain of moves. -/
theorem exec_moves {i : Instr} {s t : State} (h : exec i s = .next t) (hne : i ≠ .evReset) : Moves s t := by
  cases i with
  | evReset => exact absurd rfl hne
  | fsIdle => cases h; exact fseqAt_moves fun _ h => .single (.idle h)
  | fsDrive => cases h; exact fseqAt_moves fsDrive_moves
  | fsSample => cases h; exact fseqAt_moves fsSample_moves
  | fsComplete => cases h; exact fseqAt_moves fsComplete_moves
  | fsBufw v => cases h; exact .single (.write s v)
  | fsBufr => cases h; exact .tail (.single (.read s)) (.own _ _ _ _)
  | rsShift k b =>
    unfold exec execRsShift at h
    refine onSlot_moves h ?_
    split
    · exact Moves.mapR (.single (.shift _ b))
    · exact .refl
  | rsCsedge k => unfold exec execRsCsedge at h; exact onSlot_moves h (Moves.mapR (.single (.csedge _)))
  | rsComplete k => unfold exec execRsComplete at h; exact onSlot_moves h (Moves.mapR (.single (.complete _)))
  | rsBufr k => unfold exec execRsBufr at h; exact onSlot_moves h (.tail (Moves.mapR (k := k) (f := RNode.bufr) (.single (.bufr _))) (.own _ _ _ _))
  | rsBufw k v => unfold exec execRsBufw at h; exact onSlot_moves h (Moves.mapR (.single (.bufw _ v)))
  | rsIrqclr k m => unfold exec execRsIrqclr at h; exact onSlot_moves h (Moves.mapR (.single (.irqclr _ m)))
  | csStable => cases h; exact atState_moves (fun _ => .refl) (.inr ∘ .inl)
  | csSettling => cases h; exact atState_moves csSettling_moves (.inr ∘ .inl)
  | csAssert k => unfold exec execCsAssert at h; exact onSlot_moves h (csAssert_moves s k)
  | csDeassert k => unfold exec execCsDeassert at h; exact onSlot_moves h (csDeassert_moves s k)
  | csRead => cases h; exact .single (.own s _ _ _)
  | pollGuard => cases h; exact pollAt_moves pollGuard_moves
  | pollSample => cases h; exact pollAt_moves pollSample_moves
  | pollExcl => cases h; exact pollAt_moves pollExcl_moves
  | pollSelect => cases h; exact pollAt_moves pollSelect_moves
  | pollTxdata => cases h; exact pollAt_moves pollTxdata_moves
  | pollWaitdata => cases h; exact pollAt_moves pollWaitdata_moves
  | pollDeselect => cases h; exact pollAt_moves pollDeselect_moves
  | pollSettle => cases h; exact pollAt_moves pollSettle_moves
  | pollReselect => cases h; exact pollAt_moves pollReselect_moves
  | pollTxsent => cases h; exact pollAt_moves pollTxsent_moves
  | pollWaitreply => cases h; exact pollAt_moves pollWaitreply_moves
  | pollReceive => cases h; exact pollAt_moves pollReceive_moves
  | pollDisplay => cases h; exact pollAt_moves pollDisplay_moves
  | pollNext => cases h; exact pollAt_moves fun h => .single (.nextSlot h)
  | pollSkip => cases h; exact pollAt_moves pollSkip_moves
  | respIdle k => unfold exec execRespIdle at h; exact onSlot_moves h (respAt_moves (idle_moves _ _ _ _ _))
  | respService k => unfold exec execRespService at h; exact onSlot_moves h (respAt_moves (service_moves _ _ _ _))
  | respHEdge k => unfold exec execRespHEdge at h; exact onSlot_moves h (inVariant_moves (hEdge_moves _ _ _ _))
  | respHRxDisplay k => unfold exec execRespHRxDisplay at h; exact onSlot_moves h (inVariant_moves (hRxDisplay_moves _ _ _ _))
  | respHRxPwm k => unfold exec execRespHRxPwm at h; exact onSlot_moves h (inVariant_moves (hRxPwm_moves _ _ _ _))
  | respLinmap k x => unfold exec execRespLinmap at h; exact onSlot_moves h (respOwn_moves fun _ => .single (.own s _ _ _))
  | respPwmsplit k d => unfold exec execRespPwmsplit at h; exact onSlot_moves h (inVariant_moves fun h => .single (.pwmsplit h d))
  | respPindet k => unfold exec execRespPindet at h; exact onSlot_moves h (inVariant_moves fun h => .single (.pindet h))
  | smpIdle => cases h; exact atState_moves (fun h => smpIdle_moves (by rw [h]; decide)) (.inr ∘ .inr ∘ .inr)
  | smpIsr =>
    cases h
    rcases ofUnit_cases s.c.sState smpAssigned State.illegalC smpIsr s with ⟨ha, e⟩ | ⟨ha, e⟩ <;> rw [e]
    · exact .single (.sample ha)
    · exact .single (.illegal (.inr (.inr (.inr ha))))
  | smpStart => cases h; exact .single (.startAdc s)
  | evAdcDone ch res =>
    cases h; unfold evAdcDone; split
    · exact .single (.adcDone s res)
    · exact .refl
  | evPin k pin level => unfold exec execEvPin at h; exact onSlot_moves h (Moves.mapR (.single (.setPin _ pin level)))
  | evTick node =>
    cases node with
    | c =>
      cases h; unfold evTick; split
      · exact tickC_moves s
      · exact .refl
    | r k =>
      refine onSlot_moves (k := k) (f := evTick (.r k)) h ?_
      unfold evTick; split
      · exact tickR_moves s k
      · exact .refl
  | evDeliver delay => cases h; exact evDeliver_moves s delay

/-- A move changes neither the pending nor the owed items, nor the configuration. -/
theorem Move.items {s t : State} (h : Move s t) : t.script = s.script ∧ t.owed = s.owed ∧ t.cfg = s.cfg := by
  cases h with
  | select _ k => unfold assertLine; split <;> exact ⟨rfl, rfl, rfl⟩
  | deselect _ k => unfold deassertLine; split <;> exact ⟨rfl, rfl, rfl⟩
  | nextSlot _ => unfold pollNext; split <;> exact ⟨rfl, rfl, rfl⟩
  | responder k r _ => simp
  | _ => exact ⟨rfl, rfl, rfl⟩

/-- No operation changes the pending or the owed items, or the configuration. -/
theorem exec_items {i : Instr} {s t : State} (h : exec i s = .next t) :
    t.script = s.script ∧ t.owed = s.owed ∧ t.cfg = s.cfg := by
  by_cases hi : i = .evReset
  · subst hi; cases h; exact ⟨rfl, rfl, rfl⟩
  · refine Moves.keep (P := fun u => u.script = s.script ∧ u.owed = s.owed ∧ u.cfg = s.cfg) ?_ (exec_moves h hi)
      ⟨rfl, rfl, rfl⟩
    intro u v hu hm
    obtain ⟨h1, h2, h3⟩ := hm.items
    exact ⟨h1.trans hu.1, h2.trans hu.2.1, h3.trans hu.2.2⟩

/-- A step that answers a next state takes items and makes a chain of moves, or ends with a reset after that. -/
theorem step_moves {s t : State} (h : step s = .next t) : ∃ script owed n,
    Moves (s.taken script owed n) t ∨ ∃ u, Moves (s.taken script owed n) u ∧ t = evReset u := by
  obtain ⟨_, script, owed, n, h⟩ := step_cases h
  refine ⟨script, owed, n, ?_⟩
  rcases h with ⟨i, he⟩ | ⟨node, idx, he⟩ | rfl
  · by_cases hi : i = .evReset
    · subst hi; exact .inr ⟨_, .refl, (Host.Outcome.next.inj he).symm⟩
    · exact .inl (exec_moves he hi)
  · left
    rw [observe_next he]
    refine .trans ?_ (.single (.own _ _ _ _))
    cases node with
    | c => exact Moves.ite (fun _ => .single (.read _)) (fun _ => .refl)
    | r k => exact Moves.ite (fun _ => Moves.mapR (.single (.bufr _))) (fun _ => .refl)
  · exact .inl .refl

end Machine
end Sys2Proof
end

