-- ==== Sys2Proof/Laws/PerInstr.lean ====
section
/-! SUPPORT. Facts about every operation as syntax, one lemma per constructor. -/

namespace Sys2Proof
namespace Laws
namespace EncodedUnit

/-- The word an operation is encoded to has the unit field that R81 gives the operation's unit. -/
def Statement (i : Instr) : Prop := unitField (encodeWord i) = i.unit.field

theorem fsIdle : Statement (.fsIdle) := by
  show unitField 0x00#8 = 0#3; decide
theorem fsDrive : Statement (.fsDrive) := by
  show unitField 0x01#8 = 0#3; decide
theorem fsSample : Statement (.fsSample) := by
  show unitField 0x02#8 = 0#3; decide
theorem fsComplete : Statement (.fsComplete) := by
  show unitField 0x03#8 = 0#3; decide
theorem fsBufw (v : Byte) : Statement (.fsBufw v) := by
  show unitField 0x08#8 = 0#3; decide
theorem fsBufr : Statement (.fsBufr) := by
  show unitField 0x09#8 = 0#3; decide
theorem rsShift (k : Slot) (bit : Bool) : Statement (.rsShift k bit) := by
  show unitField 0x20#8 = 1#3; decide
theorem rsCsedge (k : Slot) : Statement (.rsCsedge k) := by
  show unitField 0x21#8 = 1#3; decide
theorem rsComplete (k : Slot) : Statement (.rsComplete k) := by
  show unitField 0x22#8 = 1#3; decide
theorem rsBufr (k : Slot) : Statement (.rsBufr k) := by
  show unitField 0x28#8 = 1#3; decide
theorem rsBufw (k : Slot) (v : Byte) : Statement (.rsBufw k v) := by
  show unitField 0x29#8 = 1#3; decide
theorem rsIrqclr (k : Slot) (m : Byte) : Statement (.rsIrqclr k m) := by
  show unitField 0x2A#8 = 1#3; decide
theorem csStable : Statement (.csStable) := by
  show unitField 0x40#8 = 2#3; decide
theorem csSettling : Statement (.csSettling) := by
  show unitField 0x41#8 = 2#3; decide
theorem csAssert (k : Slot) : Statement (.csAssert k) := by
  revert k; unfold Statement; decide
theorem csDeassert (k : Slot) : Statement (.csDeassert k) := by
  revert k; unfold Statement; decide
theorem csRead : Statement (.csRead) := by
  show unitField 0x50#8 = 2#3; decide
theorem pollGuard : Statement (.pollGuard) := by
  show unitField 0x60#8 = 3#3; decide
theorem pollSample : Statement (.pollSample) := by
  show unitField 0x61#8 = 3#3; decide
theorem pollExcl : Statement (.pollExcl) := by
  show unitField 0x62#8 = 3#3; decide
theorem pollSelect : Statement (.pollSelect) := by
  show unitField 0x63#8 = 3#3; decide
theorem pollTxdata : Statement (.pollTxdata) := by
  show unitField 0x64#8 = 3#3; decide
theorem pollWaitdata : Statement (.pollWaitdata) := by
  show unitField 0x65#8 = 3#3; decide
theorem pollDeselect : Statement (.pollDeselect) := by
  show unitField 0x66#8 = 3#3; decide
theorem pollSettle : Statement (.pollSettle) := by
  show unitField 0x67#8 = 3#3; decide
theorem pollReselect : Statement (.pollReselect) := by
  show unitField 0x68#8 = 3#3; decide
theorem pollTxsent : Statement (.pollTxsent) := by
  show unitField 0x69#8 = 3#3; decide
theorem pollWaitreply : Statement (.pollWaitreply) := by
  show unitField 0x6A#8 = 3#3; decide
theorem pollReceive : Statement (.pollReceive) := by
  show unitField 0x6B#8 = 3#3; decide
theorem pollDisplay : Statement (.pollDisplay) := by
  show unitField 0x6C#8 = 3#3; decide
theorem pollNext : Statement (.pollNext) := by
  show unitField 0x6D#8 = 3#3; decide
theorem pollSkip : Statement (.pollSkip) := by
  show unitField 0x6E#8 = 3#3; decide
theorem respIdle (k : Slot) : Statement (.respIdle k) := by
  show unitField 0x80#8 = 4#3; decide
theorem respService (k : Slot) : Statement (.respService k) := by
  show unitField 0x81#8 = 4#3; decide
theorem respHEdge (k : Slot) : Statement (.respHEdge k) := by
  show unitField 0x88#8 = 4#3; decide
theorem respHRxDisplay (k : Slot) : Statement (.respHRxDisplay k) := by
  show unitField 0x89#8 = 4#3; decide
theorem respHRxPwm (k : Slot) : Statement (.respHRxPwm k) := by
  show unitField 0x8A#8 = 4#3; decide
theorem respLinmap (k : Slot) (x : Byte) : Statement (.respLinmap k x) := by
  show unitField 0x90#8 = 4#3; decide
theorem respPwmsplit (k : Slot) (d : BitVec 10) : Statement (.respPwmsplit k d) := by
  show unitField 0x91#8 = 4#3; decide
theorem respPindet (k : Slot) : Statement (.respPindet k) := by
  show unitField 0x98#8 = 4#3; decide
theorem smpIdle : Statement (.smpIdle) := by
  show unitField 0xA0#8 = 5#3; decide
theorem smpIsr : Statement (.smpIsr) := by
  show unitField 0xA8#8 = 5#3; decide
theorem smpStart : Statement (.smpStart) := by
  show unitField 0xA9#8 = 5#3; decide
theorem evReset : Statement (.evReset) := by
  show unitField 0xC0#8 = 6#3; decide
theorem evAdcDone (ch : BitVec 4) (res : Byte) : Statement (.evAdcDone ch res) := by
  show unitField 0xC1#8 = 6#3; decide
theorem evPin (k : Slot) (pin : Pin) (level : Bool) : Statement (.evPin k pin level) := by
  show unitField 0xC2#8 = 6#3; decide
theorem evTick (node : Node) : Statement (.evTick node) := by
  show unitField 0xC3#8 = 6#3; decide
theorem evDeliver (delay : Option DelayUnit) : Statement (.evDeliver delay) := by
  show unitField 0xC4#8 = 6#3; decide

end EncodedUnit
end Laws
end Sys2Proof
end

