-- ==== Sys2Proof/Certificates/Slice0/Obligations.lean ====
section
/-! DEFINITION. The statements for the provers, each with the rule of spec/ it formalises. A meaning's statement gives
the whole next state, so it is also its frame: every field not named in it is unchanged. -/

open Sys2Proof Sys2Proof.Machine

-- Encoding

/-- One word of every unit, written out from the tables of R83–R89, decodes to the operation it names. -/
def Obligations.WrittenWordsDecode : Prop :=
  decode 0x08#8 { Payload.zero with v := 0xC8#8 } = some (.fsBufw 0xC8#8)
    ∧ decode 0x2A#8 { Payload.zero with k := 1#1, v := 0b10#8 } = some (.rsIrqclr 1#1 0b10#8)
    ∧ decode 0x49#8 Payload.zero = some (.csAssert 1#1)
    ∧ decode 0x4C#8 Payload.zero = some (.csDeassert 0#1)
    ∧ decode 0x6E#8 Payload.zero = some .pollSkip
    ∧ decode 0x91#8 { Payload.zero with k := 1#1, d := 125#10 } = some (.respPwmsplit 1#1 125#10)
    ∧ decode 0xA9#8 Payload.zero = some .smpStart
    ∧ decode 0xC1#8 { Payload.zero with ch := 3#4, res := 200#8 } = some (.evAdcDone 3#4 200#8)

/-- Decoding the word and payload of any operation gives the operation back, every operand at every value. -/
def Obligations.DecodeOfEncodeIsIdentity : Prop :=
  ∀ i : Instr, decode (encode i).1 (encode i).2 = some i

/-- Exactly the listed words decode, each to an operation with that word, and a pending word that is not listed is
refused by the step that takes it (R90, R93). That a step takes a pending word where no owed operation is due is the model's
choice, notes/assumptions/4.md and 20.md. -/
def Obligations.ListedWordsAreExactlyThoseThatDecode : Prop :=
  (∀ (w : Byte) (p : Payload), (decode w p).isSome = true ↔
    w.toNat ∈ [0x00, 0x01, 0x02, 0x03, 0x08, 0x09, 0x20, 0x21, 0x22, 0x28, 0x29, 0x2A, 0x40, 0x41, 0x48, 0x49,
      0x4C, 0x4D, 0x50, 0x60, 0x61, 0x62, 0x63, 0x64, 0x65, 0x66, 0x67, 0x68, 0x69, 0x6A, 0x6B, 0x6C, 0x6D, 0x6E,
      0x80, 0x81, 0x88, 0x89, 0x8A, 0x90, 0x91, 0x98, 0xA0, 0xA8, 0xA9, 0xC0, 0xC1, 0xC2, 0xC3, 0xC4])
  ∧ (∀ (w : Byte) (p : Payload) (i : Instr), decode w p = some i → encodeWord i = w)
  ∧ (∀ (s : State) (w : Byte) (p : Payload) (rest : List ScriptItem), s.cfg.ok = true → s.noneDue = true →
      s.script = .op w p :: rest → decode w p = none → step s = .refused .reservedWord)

/-- `k` is `w[0]` of `CS.ASSERT` and `CS.DEASSERT`, and must be below `N_RESP` (R91). -/
def Obligations.SelectWordsCarryTheirSlotInBitZero : Prop :=
  (∀ (k : Slot) (p : Payload),
    decode (0x48#8 ||| k.setWidth 8) p = some (.csAssert k)
      ∧ decode (0x4C#8 ||| k.setWidth 8) p = some (.csDeassert k))
  ∧ (∀ (k : Slot) (s : State), s.cfg.nResp ≤ k.toNat →
      exec (.csAssert k) s = .refused .absentSlot ∧ exec (.csDeassert k) s = .refused .absentSlot)

-- Steps

/-- A step whose first pending item decodes to `i` is `exec i` on the state without that item, where no owed operation is
due; an operation that waits holds and is owed its step, and the first owed one that waits no longer is the next step. A
`RUN` line (R94, R95) is done in its state, and before it an agent of the node steps, or none. A word listed for what
happens inside another step has no step of its own. How a scenario's items are taken is the model's reading of R95,
notes/assumptions/20.md. -/
def Obligations.StepRunsTheDecodedOperation : Prop :=
  ∀ s : State, s.cfg.ok = true →
    (∀ (w : Byte) (p : Payload) (rest : List ScriptItem) (i : Instr), s.noneDue = true → s.script = .op w p :: rest →
      decode w p = some i →
        (s.waits i = false → step s = exec i { s with script := rest })
        ∧ (s.waits i = true → i.wellFormed s.cfg = true →
            step s = .next { s with script := rest, owed := s.owed ++ [i] }))
    ∧ (∀ (before after : List Instr) (i : Instr), s.owed = before ++ i :: after →
        (∀ j ∈ before, s.waits j = true) → s.waits i = false → step s = exec i { s with owed := before ++ after })
    ∧ (∀ (fsm : Fsm) (code : Code) (rest : List ScriptItem), s.noneDue = true → s.hasFsm fsm = true →
        s.script = .run fsm code :: rest →
        (s.fsmCode fsm = code → step s = .next { s with script := rest })
        ∧ (s.fsmCode fsm ≠ code → ∃ t, step s = .next t ∧ t.script = s.script ∧ t.owed = s.owed
            ∧ (t = s.drew 1 ∨ ∃ i, isMove s.cfg.time i = true ∧ agentNode i = some fsm.node
                ∧ exec i (s.drew 1) = .next t)))
    ∧ (∀ (w : Byte) (rest : List ScriptItem) (i : Instr), s.noneDue = true → s.script = .invoked w :: rest →
        decode w Payload.zero = some i → i.wellFormed s.cfg = true → step s = .next { s with script := rest })

/-- A configuration that fails a check of R253 has no run. One that meets them all is never refused for its configuration
where time is abstract, and in a tick model where its tick counts fit their counters (the model's reading,
notes/assumptions/5.md). -/
def Obligations.ConfigurationChecksDecideWhetherAStepRuns : Prop :=
  ∀ s : State,
    (¬((s.cfg.nResp = 1 ∨ s.cfg.nResp = 2) ∧ 1 ≤ s.cfg.halfBitTicks
        ∧ 2 * s.cfg.halfBitTicks ≤ s.cfg.settleTicks
        ∧ (∀ k : Slot, k.toNat < s.cfg.nResp →
            (s.cfg.slot k).cpol = s.cfg.cpol ∧ (s.cfg.slot k).cpha = s.cfg.cpha
              ∧ (s.cfg.slot k).outMin ≤ 1023 ∧ (s.cfg.slot k).outMax ≤ 1023)
        ∧ s.cfg.inMin = 0 ∧ s.cfg.inMax = 255) →
      step s = .refused .invalidConfig)
    ∧ (s.cfg.valid = true → (s.cfg.time = .tickAccurate → s.cfg.fits = true) → step s ≠ .refused .invalidConfig)

/-- An operation answers a next state exactly where the slot it names, if it names one, exists; elsewhere it is refused
as such. No operation ends in a fault, and none is refused for another reason. THE MODEL'S CHOICES it rests on: an
operation that is not enabled holds (DESIGN CHOICE, notes/assumptions/8.md), a responder word, EV.PIN or EV.TICK of an
absent slot is refused like the words of R90 (DEDUCED, notes/assumptions/7.md), no step ends in a fault (DEDUCED,
notes/assumptions/17.md). -/
def Obligations.WellFormedOperationsAnswerANextState : Prop :=
  ∀ (i : Instr) (s : State),
    (i.wellFormed s.cfg = true → ∃ t, exec i s = .next t)
      ∧ (i.wellFormed s.cfg = false → exec i s = .refused .absentSlot)

/-- Reads through the observation interface return the register and have the side effect of R65 (a read of `BUF_C`
clears `RDY`, of `BUF_R` clears `RXF`, any other nothing); a reserved index reads 0 (R61); a write from outside is
refused (R62). That the value stands in the model's `result` is the model's choice, notes/assumptions/6.md; that a read of a
node the machine does not have is refused as `absentSlot` is its choice too, notes/assumptions/7.md. -/
def Obligations.ObservationReadsAndRefusesWrites : Prop :=
  ∀ (s : State) (rest : List ScriptItem), s.cfg.ok = true → s.noneDue = true →
    (s.script = .regRead .c 0x00#8 :: rest →
      step s = .next { s with script := rest, c := { s.c with rdy := false }, result := s.c.rxbufC.setWidth 10 })
    ∧ (∀ k : Slot, s.cfg.hasSlot k = true → s.script = .regRead (.r k) 0x00#8 :: rest →
      step s = .next { (s.setRnode k { s.rnode k with rxf := false }) with
        script := rest, result := (s.rnode k).rxbufR.setWidth 10 })
    ∧ (∀ idx : Byte, idx ≠ 0x00#8 → s.script = .regRead .c idx :: rest →
      step s = .next { s with script := rest, result := (s.regC idx).setWidth 10 })
    ∧ (∀ (k : Slot) (idx : Byte), s.cfg.hasSlot k = true → idx ≠ 0x00#8 →
      s.script = .regRead (.r k) idx :: rest →
      step s = .next { s with script := rest, result := (s.regR k idx).setWidth 10 })
    ∧ (∀ (k : Slot) (idx : Byte), s.cfg.hasSlot k = false → s.script = .regRead (.r k) idx :: rest →
      step s = .refused .absentSlot)
    ∧ (∀ idx : Byte, (0x0C ≤ idx.toNat ∧ idx.toNat ≤ 0x0E) ∨ 0x10 ≤ idx.toNat →
      s.regC idx = 0#8 ∧ ∀ k : Slot, s.regR k idx = 0#8)
    ∧ (∀ (node : Node) (idx v : Byte), s.script = .regWrite node idx v :: rest →
      step s = .refused .externalRegWrite)

/-- The register maps of R30 and R34: at each assigned index the value of its register, and the status bytes show the flags
in their bits; every bit that is not named reads 0, but for `CS_C`, which reads 1 above its lines. A write by the unit that
the maps name as writer writes; every other write is ignored (R10, R61). -/
def Obligations.StatusRegistersShowTheFlags : Prop :=
  (∀ s : State,
    s.regC 0x00#8 = s.c.rxbufC ∧ s.regC 0x02#8 = s.c.ctrlC
    ∧ (s.cfg.nResp = 1 → s.regC 0x03#8 = 0b1111111#7 ++ s.c.csN.extractLsb' 0 1)
    ∧ (s.cfg.nResp = 2 → s.regC 0x03#8 = 0b111111#6 ++ s.c.csN)
    ∧ s.regC 0x05#8 = s.c.sampled ∧ s.regC 0x07#8 = s.c.ledC ∧ s.regC 0x08#8 = s.c.reply
    ∧ s.regC 0x09#8 = 0b00#2 ++ s.c.slot ++ s.c.pState ∧ s.regC 0x0A#8 = 0b000#3 ++ s.c.fsState
    ∧ s.regC 0x0B#8 = 0b0000#4 ++ s.c.bitcntC ∧ s.regC 0x0F#8 = s.c.faultC)
  ∧ (∀ (s : State) (k : Slot),
    s.regR k 0x00#8 = (s.rnode k).rxbufR ∧ s.regR k 0x02#8 = (s.rnode k).ctrlR
    ∧ s.regR k 0x04#8 = (s.rnode k).counter ∧ s.regR k 0x06#8 = 0b000000#6 ++ (s.rnode k).edgeEn
    ∧ s.regR k 0x07#8 = (s.rnode k).ledR ∧ s.regR k 0x08#8 = (s.rnode k).dutyH
    ∧ s.regR k 0x09#8 = 0b000000#6 ++ (s.rnode k).dutyL ∧ s.regR k 0x0A#8 = (s.rnode k).pwmPr
    ∧ s.regR k 0x0B#8 = 0b000#3 ++ (s.rnode k).rState ∧ s.regR k 0x0F#8 = (s.rnode k).faultR)
  ∧ (∀ (s : State) (k : Slot) (n : Nat),
    (s.regC 0x01#8).getLsbD n = ((n == 0 && s.c.rdy) || (n == 1 && s.c.busy))
    ∧ (s.regC 0x04#8).getLsbD n = (n == 0 && s.c.csState == CS_SETTLING)
    ∧ (s.regC 0x06#8).getLsbD n = ((n == 0 && s.c.adcBusy) || (n == 1 && s.c.adif))
    ∧ (s.regR k 0x01#8).getLsbD n =
        ((n == 0 && (s.rnode k).rxf) || (n == 1 && (s.rnode k).bitcntR != 0#4)
          || (n == 2 && !csLine s.c.csN k))
    ∧ (s.regR k 0x03#8).getLsbD n = ((n == 0 && (s.rnode k).irqfRx) || (n == 1 && (s.rnode k).edgeF))
    ∧ (s.regR k 0x05#8).getLsbD n = ((n == 0 && (s.rnode k).incN) || (n == 1 && (s.rnode k).decN)))
  ∧ (∀ (s : State) (unit : OpUnit) (idx v : Byte),
    exec (.fsBufw v) s = .next (s.regWriteC .poll 0x00#8 v)
    ∧ s.regWriteC .poll 0x07#8 v = { s with c := { s.c with ledC := v } }
    ∧ s.regWriteC .sampler 0x05#8 v = { s with c := { s.c with sampled := v } }
    ∧ (¬(unit = .poll ∧ (idx = 0x00#8 ∨ idx = 0x07#8)) → ¬(unit = .sampler ∧ idx = 0x05#8) →
      s.regWriteC unit idx v = s))
  ∧ ∀ (s : State) (k : Slot) (unit : OpUnit) (idx v : Byte),
    (s.cfg.hasSlot k = true → exec (.rsBufw k v) s = .next (s.regWriteR k .resp 0x00#8 v)
      ∧ exec (.rsIrqclr k v) s = .next (s.regWriteR k .resp 0x03#8 v))
    ∧ s.regWriteR k .resp 0x04#8 v = s.setRnode k { s.rnode k with counter := v }
    ∧ s.regWriteR k .resp 0x07#8 v = s.setRnode k { s.rnode k with ledR := v }
    ∧ s.regWriteR k .resp 0x08#8 v = s.setRnode k { s.rnode k with dutyH := v }
    ∧ s.regWriteR k .resp 0x09#8 v = s.setRnode k { s.rnode k with dutyL := v.extractLsb' 0 2 }
    ∧ (¬(unit = .resp ∧ idx ∈ [0x00#8, 0x03#8, 0x04#8, 0x07#8, 0x08#8, 0x09#8]) → s.regWriteR k unit idx v = s)

-- FSEQ

/-- `FS.IDLE` only holds `sck` at its idle level (R101); `CS.STABLE` does nothing (R131). -/
def Obligations.IdleStatesHaveNoStepOfTheirOwn : Prop :=
  ∀ s : State,
    (s.c.stalledC = false → s.c.fsState = FS_IDLE →
      exec .fsIdle s = .next { s with c := { s.c with sck := s.cfg.cpol } })
    ∧ (s.c.csState = CS_STABLE → exec .csStable s = .next s)

/-- `FS.DRIVE` (R102): `sck` and `mosi` are driven; the half bit counts down in a tick model, and ends with the sample
edge (one step where time is abstract, R265). -/
def Obligations.DriveHalfBitEndsWithTheSampleEdge : Prop :=
  ∀ s : State, s.c.stalledC = false → s.c.fsState = FS_DRIVE →
    (s.cfg.time = .tickAccurate → s.c.divcntC ≠ 0#16 →
      exec .fsDrive s = .next { s with
        c := { s.c with sck := s.cfg.cpol ^^ s.cfg.cpha, mosi := s.c.srC.getLsbD 7,
                        divcntC := s.c.divcntC - 1#16 } })
    ∧ ((s.cfg.time = .timeAbstract ∨ s.c.divcntC = 0#16) →
      let e := sampleEdge { s with
        c := { s.c with sck := s.cfg.cpol ^^ s.cfg.cpha, mosi := s.c.srC.getLsbD 7 } }
      exec .fsDrive s = .next { e with
        c := { e.c with divcntC := BitVec.ofNat 16 (s.cfg.halfBitTicks - 1), fsState := FS_SAMPLE } })

/-- `SAMPLE_EDGE` and the trailing half bit (R103). A drawn bit is a free value: the clauses hold for both of its
values. -/
def Obligations.SampleEdgeShiftsAndTheBitIsCounted : Prop :=
  (∀ (s : State) (k : Slot), s.selected k = true → s.selected (~~~k) = false →
    sampleEdge s =
      ({ s with c := { s.c with
          srC := s.c.srC.extractLsb' 0 7 ++ BitVec.ofBool ((s.rnode k).srR.getLsbD 7) } } : State).setRnode k
        ((s.rnode k).shift (s.c.srC.getLsbD 7)))
  ∧ (∀ s : State, s.selected 0#1 = true → s.selected 1#1 = true →
    ∃ b : Bool, sampleEdge s = { s with
      c := { s.c with faultC := s.c.faultC ||| CONTENTION, srC := s.c.srC.extractLsb' 0 7 ++ BitVec.ofBool b }
      r0 := s.r0.shift (s.c.srC.getLsbD 7), r1 := s.r1.shift (s.c.srC.getLsbD 7)
      drawIdx := s.drawIdx + 1 })
  ∧ (∀ s : State, s.selected 0#1 = false → s.selected 1#1 = false →
    ∃ b : Bool, sampleEdge s = { s with
      c := { s.c with unselC := true, srC := s.c.srC.extractLsb' 0 7 ++ BitVec.ofBool b }
      drawIdx := s.drawIdx + 1 })
  ∧ (∀ s : State, s.c.stalledC = false → s.c.fsState = FS_SAMPLE →
    (s.cfg.time = .tickAccurate → s.c.divcntC ≠ 0#16 →
      exec .fsSample s = .next { s with
        c := { s.c with sck := !(s.cfg.cpol ^^ s.cfg.cpha), divcntC := s.c.divcntC - 1#16 } })
    ∧ ((s.cfg.time = .timeAbstract ∨ s.c.divcntC = 0#16) → s.c.bitcntC = 1#4 →
      exec .fsSample s = .next { s with
        c := { s.c with sck := !(s.cfg.cpol ^^ s.cfg.cpha), bitcntC := 0#4, fsState := FS_COMPLETE } })
    ∧ ((s.cfg.time = .timeAbstract ∨ s.c.divcntC = 0#16) → s.c.bitcntC ≠ 1#4 →
      exec .fsSample s = .next { s with
        c := { s.c with sck := !(s.cfg.cpol ^^ s.cfg.cpha), bitcntC := s.c.bitcntC - 1#4,
                        divcntC := BitVec.ofNat 16 (s.cfg.halfBitTicks - 1), fsState := FS_DRIVE } }))

/-- `FS.COMPLETE` (R106): the byte is latched and the frame ends; where a sample edge of the frame found no responder
selected, a draw may stall FSEQ instead. -/
def Obligations.CompletionLatchesTheByteOrStalls : Prop :=
  ∀ s : State, s.c.stalledC = false → s.c.fsState = FS_COMPLETE →
    let done : CNode :=
      { s.c with rxbufC := s.c.srC, rdy := true, busy := false, sck := s.cfg.cpol, fsState := FS_IDLE }
    (¬(s.c.unselC = true ∧ s.cfg.stallOnUnselected = true) → exec .fsComplete s = .next { s with c := done })
    ∧ (s.c.unselC = true ∧ s.cfg.stallOnUnselected = true →
      exec .fsComplete s = .next { s with c := done, drawIdx := s.drawIdx + 1 }
      ∨ exec .fsComplete s = .next { s with c := { s.c with stalledC := true }, drawIdx := s.drawIdx + 1 })

/-- `FS.BUFW v` and `FS.BUFR` (R104, R105) where FSEQ holds an assigned code. Where it holds none, the write raises
ILLEGAL_STATE and loads nothing, and the read acts: the model's reading of R90, notes/assumptions/9.md. That the byte
read stands in the model's `result` is the model's choice, notes/assumptions/6.md. -/
def Obligations.ControllerBufferWriteAndRead : Prop :=
  ∀ (s : State) (v : Byte),
    (fsAssigned s.c.fsState = true → s.c.busy = true →
      exec (.fsBufw v) s = .next { s with c := { s.c with faultC := s.c.faultC ||| WCOL } })
    ∧ (fsAssigned s.c.fsState = true → s.c.busy = false →
      exec (.fsBufw v) s = .next { s with
        c := { s.c with srC := v, bitcntC := 8#4, divcntC := BitVec.ofNat 16 (s.cfg.halfBitTicks - 1),
                        unselC := false, rdy := false, busy := true, fsState := FS_DRIVE } })
    ∧ (fsAssigned s.c.fsState = false →
      exec (.fsBufw v) s = .next { s with c := { s.c with faultC := s.c.faultC ||| ILLEGAL_STATE_C } })
    ∧ exec .fsBufr s = .next { s with c := { s.c with rdy := false }, result := s.c.rxbufC.setWidth 10 }

/-- The exchange law (R108) of a frame that nothing else interleaves with, where time is abstract: C receives the byte
the selected responder held, the responder the byte C sent, whatever the two bytes are. -/
def Obligations.FrameExchangesTheTwoBytes : Prop :=
  ∀ (s : State) (k : Slot),
    s.cfg.time = .timeAbstract → s.c.stalledC = false → s.c.unselC = false → s.c.fsState = FS_DRIVE →
    s.c.bitcntC = 8#4 → s.selected k = true → s.selected (~~~k) = false → (s.rnode k).bitcntR = 0#4 →
      ∃ t, runOps frameOps s = .next t
        ∧ t.c.rxbufC = (s.rnode k).srR ∧ t.c.srC = (s.rnode k).srR ∧ t.c.rdy = true ∧ t.c.busy = false
        ∧ t.c.fsState = FS_IDLE ∧ t.c.faultC = s.c.faultC
        ∧ (t.rnode k).srR = s.c.srC ∧ (t.rnode k).bitcntR = 0#4 ∧ (t.rnode k).irqfRx = true
        ∧ ((s.rnode k).rxf = false →
            (t.rnode k).rxbufR = s.c.srC ∧ (t.rnode k).rxf = true ∧ (t.rnode k).faultR = (s.rnode k).faultR)
        ∧ ((s.rnode k).rxf = true →
            (t.rnode k).rxbufR = (s.rnode k).rxbufR ∧ (t.rnode k).faultR = (s.rnode k).faultR ||| OVF)
        ∧ t.rnode (~~~k) = s.rnode (~~~k)

/-- Frame timing (R109): in a tick model a frame with one responder selected ends with the tick numbered
`16 × HALF_BIT_TICKS + 1` after the write that started it, and not before. -/
def Obligations.FrameLastsSixteenHalfBitsAndOneTick : Prop :=
  ∀ (s : State) (k : Slot),
    s.cfg.time = .tickAccurate → 1 ≤ s.cfg.halfBitTicks → s.cfg.halfBitTicks ≤ 65536 → s.c.stalledC = false →
    s.c.unselC = false → s.c.fsState = FS_DRIVE → s.c.bitcntC = 8#4 →
    s.c.divcntC = BitVec.ofNat 16 (s.cfg.halfBitTicks - 1) → s.c.rdy = false →
    s.selected k = true → s.selected (~~~k) = false →
      (∀ n, n ≤ 16 * s.cfg.halfBitTicks → (fseqTicks n s).c.fsState ≠ FS_IDLE ∧ (fseqTicks n s).c.rdy = false)
      ∧ (fseqTicks (16 * s.cfg.halfBitTicks + 1) s).c.fsState = FS_IDLE
      ∧ (fseqTicks (16 * s.cfg.halfBitTicks + 1) s).c.rdy = true

-- RSHIFT

/-- `RS.SHIFT` and `RS.COMPLETE` (R110, R112): a selected responder shifts the bit in and counts it, the eighth completes
the frame; a responder that is not selected does not shift. Completion latches the byte and sets `RXF`, or raises OVF
and keeps the unread byte; the interrupt flag is set either way. -/
def Obligations.SelectedResponderShiftsAndCompletes : Prop :=
  ∀ (s : State) (k : Slot) (b : Bool), s.cfg.hasSlot k = true →
    (s.selected k = true → (s.rnode k).bitcntR ≠ 7#4 →
      exec (.rsShift k b) s = .next (s.setRnode k
        { s.rnode k with srR := (s.rnode k).srR.extractLsb' 0 7 ++ BitVec.ofBool b,
                         bitcntR := (s.rnode k).bitcntR + 1#4 }))
    ∧ (s.selected k = true → (s.rnode k).bitcntR = 7#4 →
      exec (.rsShift k b) s = exec (.rsComplete k) (s.setRnode k
        { s.rnode k with srR := (s.rnode k).srR.extractLsb' 0 7 ++ BitVec.ofBool b, bitcntR := 0#4 }))
    ∧ (s.selected k = false → exec (.rsShift k b) s = .next s)
    ∧ ((s.rnode k).rxf = true → exec (.rsComplete k) s = .next (s.setRnode k
      { s.rnode k with faultR := (s.rnode k).faultR ||| OVF, irqfRx := true }))
    ∧ ((s.rnode k).rxf = false → exec (.rsComplete k) s = .next (s.setRnode k
      { s.rnode k with rxbufR := (s.rnode k).srR, rxf := true, irqfRx := true }))

/-- `RS.CSEDGE` (R111): a deselect edge discards a partial frame with FRAME_ABORT; a select edge only updates
`CS_SEEN`; without an edge nothing changes. -/
def Obligations.DeselectEdgeAbortsAPartialFrame : Prop :=
  ∀ (s : State) (k : Slot), s.cfg.hasSlot k = true →
    ((s.rnode k).csSeen = false → csLine s.c.csN k = true → (s.rnode k).bitcntR ≠ 0#4 →
      exec (.rsCsedge k) s = .next (s.setRnode k
        { s.rnode k with faultR := (s.rnode k).faultR ||| FRAME_ABORT, bitcntR := 0#4, csSeen := true }))
    ∧ ((s.rnode k).csSeen = false → csLine s.c.csN k = true → (s.rnode k).bitcntR = 0#4 →
      exec (.rsCsedge k) s = .next (s.setRnode k { s.rnode k with csSeen := true }))
    ∧ ((s.rnode k).csSeen = true → csLine s.c.csN k = false →
      exec (.rsCsedge k) s = .next (s.setRnode k { s.rnode k with csSeen := false }))
    ∧ ((s.rnode k).csSeen = csLine s.c.csN k → exec (.rsCsedge k) s = .next s)

/-- `RS.BUFR`, `RS.BUFW v` and `RS.IRQCLR m` (R113, R114, R115). That the byte read stands in the model's `result` is the
model's choice, notes/assumptions/6.md. -/
def Obligations.ResponderBufferAndFlagAccesses : Prop :=
  ∀ (s : State) (k : Slot) (v : Byte), s.cfg.hasSlot k = true →
    exec (.rsBufr k) s = .next { s.setRnode k { s.rnode k with rxf := false } with
      result := (s.rnode k).rxbufR.setWidth 10 }
    ∧ ((s.rnode k).bitcntR ≠ 0#4 → exec (.rsBufw k v) s = .next (s.setRnode k
      { s.rnode k with faultR := (s.rnode k).faultR ||| WCOL_R }))
    ∧ ((s.rnode k).bitcntR = 0#4 → exec (.rsBufw k v) s = .next (s.setRnode k { s.rnode k with srR := v }))
    ∧ exec (.rsIrqclr k v) s = .next (s.setRnode k
      { s.rnode k with irqfRx := if v.getLsbD 0 then (s.rnode k).irqfRx else false,
                       edgeF := if v.getLsbD 1 then (s.rnode k).edgeF else false })

-- CSMUX

/-- `CS.SETTLING` (R132): a tick counts the delay down, the last one ends it; where time is abstract only `EV.DELIVER`
ends it. -/
def Obligations.SettleDelayCountsDown : Prop :=
  ∀ s : State, s.c.csState = CS_SETTLING →
    (s.cfg.time = .tickAccurate → 1 < s.c.settleCnt.toNat →
      exec .csSettling s = .next { s with c := { s.c with settleCnt := s.c.settleCnt - 1#32 } })
    ∧ (s.cfg.time = .tickAccurate → s.c.settleCnt.toNat ≤ 1 →
      exec .csSettling s = .next { s with c := { s.c with settleCnt := 0#32, csState := CS_STABLE } })
    ∧ (s.cfg.time = .timeAbstract → exec .csSettling s = .next s)

/-- The settle delay lasts exactly the loaded number of ticks (R132). The settle guarantee (R137), of a run in which line `k`
is deselected at `n`, is low again at `m` and high between, with no reset between: in a tick model the line stays high for
at least `SETTLE_TICKS` ticks of C, and with equal clocks on C and `R_k` a tick of `R_k` falls between and sees the
deselect; where time is abstract, under the premise that R137 names, an `RS.CSEDGE` of `R_k` that the deselect edge enables
falls between, and no bit of a partial frame is left. -/
def Obligations.SettleDelayLastsItsTicks : Prop :=
  (∀ s : State, s.cfg.time = .tickAccurate → s.c.csState = CS_SETTLING → 1 ≤ s.c.settleCnt.toNat →
    (∀ n, n < s.c.settleCnt.toNat → (csmuxTicks n s).c.csState = CS_SETTLING)
      ∧ csmuxTicks s.c.settleCnt.toNat s =
          { s with c := { s.c with settleCnt := 0#32, csState := CS_STABLE } })
  ∧ ∀ (moves : Nat → Instr) (run : Nat → State) (k : Slot) (n m : Nat), IsRun moves run → (run n).cfg.ok = true →
      n < m → Deselects k (run n) (run (n + 1)) → (∀ j, n < j → j < m → csLine (run j).c.csN k = true) →
      csLine (run m).c.csN k = false → (∀ j, n ≤ j → j < m → moves j ≠ .evReset) →
      ((run n).cfg.time = .tickAccurate →
        (run n).cfg.settleTicks ≤ movesIn moves (.evTick .c) (n + 1) (m - (n + 1))
        ∧ (EqualClocks k moves → ∃ j, n < j ∧ j < m ∧ moves j = .evTick (.r k)
            ∧ csLine (run j).c.csN k = true ∧ ((run (j + 1)).rnode k).csSeen = true))
      ∧ ((run n).cfg.time = .timeAbstract → DeselectEdgesSeen k moves run →
          ∃ j, n < j ∧ j < m ∧ SeesDeselect k moves run j
            ∧ ((run (j + 1)).rnode k).csSeen = true ∧ ((run (j + 1)).rnode k).bitcntR = 0#4)

/-- `CS.ASSERT k` (R133): waits for `CS_STABLE`; is refused with CS_EXCL while another line is low; else drives the
line low; raises CS_IN_FRAME during a frame. -/
def Obligations.AssertDrivesOneLineLow : Prop :=
  ∀ (s : State) (k : Slot), s.cfg.hasSlot k = true →
    (s.c.csState ≠ CS_STABLE → exec (.csAssert k) s = .next s)
    ∧ (s.c.csState = CS_STABLE → s.selected (~~~k) = true →
      exec (.csAssert k) s = .next { s with
        c := { s.c with faultC := (if s.c.busy then s.c.faultC ||| CS_IN_FRAME else s.c.faultC) ||| CS_EXCL } })
    ∧ (s.c.csState = CS_STABLE → s.selected (~~~k) = false →
      exec (.csAssert k) s = .next { s with
        c := { s.c with faultC := if s.c.busy then s.c.faultC ||| CS_IN_FRAME else s.c.faultC,
                        csN := s.c.csN &&& ~~~lineMask k } })

/-- `CS.DEASSERT k` (R134): waits for `CS_STABLE`; drives a low line high and starts the settle delay; leaves a high line
alone; raises CS_IN_FRAME during a frame. -/
def Obligations.DeassertDrivesTheLineHighAndSettles : Prop :=
  ∀ (s : State) (k : Slot), s.cfg.hasSlot k = true →
    (s.c.csState ≠ CS_STABLE → exec (.csDeassert k) s = .next s)
    ∧ (s.c.csState = CS_STABLE → csLine s.c.csN k = true →
      exec (.csDeassert k) s = .next { s with
        c := { s.c with faultC := if s.c.busy then s.c.faultC ||| CS_IN_FRAME else s.c.faultC } })
    ∧ (s.c.csState = CS_STABLE → csLine s.c.csN k = false →
      exec (.csDeassert k) s = .next { s with
        c := { s.c with faultC := if s.c.busy then s.c.faultC ||| CS_IN_FRAME else s.c.faultC,
                        csN := s.c.csN ||| lineMask k, settleCnt := BitVec.ofNat 32 s.cfg.settleTicks,
                        csState := CS_SETTLING } })

/-- `CS.READ` (R135): `CS_C` is `CS_N` below ones, `CSSTAT` says whether a settle delay runs; nothing else changes.
That the results stand in the model's `result` and `resultStat` is the model's choice, notes/assumptions/6.md. -/
def Obligations.SelectReadReturnsLinesAndStatus : Prop :=
  ∀ s : State,
    (s.cfg.nResp = 1 → exec .csRead s = .next { s with
      result := (0b1111111#7 ++ s.c.csN.extractLsb' 0 1).setWidth 10,
      resultStat := if s.c.csState = CS_SETTLING then 1#8 else 0#8 })
    ∧ (s.cfg.nResp = 2 → exec .csRead s = .next { s with
      result := (0b111111#6 ++ s.c.csN).setWidth 10,
      resultStat := if s.c.csState = CS_SETTLING then 1#8 else 0#8 })

/-- Mutual exclusion of the select lines (R136) is kept by every step. -/
def Obligations.StepsKeepAtMostOneLineLow : Prop :=
  ∀ s t : State, Exclusive s → step s = .next t → Exclusive t

/-- `CS_STABLE` is left only by a deselect of a line that was low (R131): by `CS.DEASSERT`, or inside `POLL.EXCL`,
`POLL.DESELECT` or a tick of C. -/
def Obligations.OnlyADeselectStartsASettleDelay : Prop :=
  ∀ (i : Instr) (s t : State), exec i s = .next t → s.c.csState = CS_STABLE → t.c.csState ≠ CS_STABLE →
    (i = .csDeassert 0#1 ∨ i = .csDeassert 1#1 ∨ i = .pollExcl ∨ i = .pollDeselect ∨ i = .evTick .c)
      ∧ ∃ k : Slot, csLine s.c.csN k = false ∧ csLine t.c.csN k = true

-- POLL

/-- `POLL.GUARD` and `POLL.SAMPLE` (R151, R152), with `SMP.START` (R213) written out. That the request is made
also where `S_STATE` is unassigned is the model's reading, notes/assumptions/9.md. -/
def Obligations.GuardDelayThenConversionRequest : Prop :=
  ∀ s : State,
    (s.c.pState = P_GUARD → s.cfg.time = .tickAccurate → s.c.guardCnt ≠ 0#32 →
      exec .pollGuard s = .next { s with c := { s.c with guardCnt := s.c.guardCnt - 1#32 } })
    ∧ (s.c.pState = P_GUARD → s.cfg.time = .tickAccurate → s.c.guardCnt = 0#32 →
      exec .pollGuard s = .next { s with c := { s.c with pState := P_SAMPLE } })
    ∧ (s.c.pState = P_GUARD → s.cfg.time = .timeAbstract → exec .pollGuard s = .next s)
    ∧ (s.c.pState = P_SAMPLE → s.c.adcBusy = false → exec .pollSample s = .next { s with
      c := { s.c with adcStart := true, adcBusy := true, pState := P_EXCL } })
    ∧ (s.c.pState = P_SAMPLE → s.c.adcBusy = true →
      exec .pollSample s = .next { s with c := { s.c with pState := P_EXCL } })

/-- `POLL.EXCL` (R153), with `CS.DEASSERT` (R134) written out. That the pulse on `adc_start` ends here is the model's
choice, notes/assumptions/12.md. -/
def Obligations.ExclusionDeselectsTheOtherSlot : Prop :=
  ∀ s : State, s.c.pState = P_EXCL →
    (s.c.csState ≠ CS_STABLE → exec .pollExcl s = .next s)
    ∧ (s.c.csState = CS_STABLE → s.selected (~~~s.c.slot) = true →
      exec .pollExcl s = .next { s with
        c := { s.c with adcStart := false,
                        faultC := if s.c.busy then s.c.faultC ||| CS_IN_FRAME else s.c.faultC,
                        csN := s.c.csN ||| lineMask (~~~s.c.slot),
                        settleCnt := BitVec.ofNat 32 s.cfg.settleTicks, csState := CS_SETTLING } })
    ∧ (s.c.csState = CS_STABLE → s.selected (~~~s.c.slot) = false →
      exec .pollExcl s = .next { s with c := { s.c with adcStart := false, pState := P_SELECT } })

/-- `POLL.SELECT` and `POLL.RESELECT` (R154, R159), with `CS.ASSERT` (R133) written out. -/
def Obligations.SelectAndReselectAssertTheSlot : Prop :=
  ∀ (s : State) (i : Instr) (here after : Code),
    (i = .pollSelect ∧ here = P_SELECT ∧ after = P_TXDATA)
      ∨ (i = .pollReselect ∧ here = P_RESELECT ∧ after = P_TXSENT) →
    s.c.pState = here →
    (s.c.csState ≠ CS_STABLE → exec i s = .next s)
    ∧ (s.c.csState = CS_STABLE → s.selected (~~~s.c.slot) = false →
      exec i s = .next { s with
        c := { s.c with faultC := if s.c.busy then s.c.faultC ||| CS_IN_FRAME else s.c.faultC,
                        csN := s.c.csN &&& ~~~lineMask s.c.slot, pState := after } })
    ∧ (s.c.csState = CS_STABLE → s.selected (~~~s.c.slot) = true →
      exec i s = .next { s with
        c := { s.c with faultC := (if s.c.busy then s.c.faultC ||| CS_IN_FRAME else s.c.faultC) ||| CS_EXCL,
                        pState := after } })

/-- `POLL.TXDATA` and `POLL.TXSENT` (R155, R160), with `FS.BUFW` (R104) written out: the data frame carries `SAMPLED`,
the reply frame the sentinel. -/
def Obligations.TransmitStatesStartTheirFrames : Prop :=
  ∀ (s : State) (i : Instr) (v : Byte) (after : Code),
    (i = .pollTxdata ∧ s.c.pState = P_TXDATA ∧ v = s.c.sampled
        ∧ after = (if (s.cfg.slot s.c.slot).polled then P_WAITDATA else P_SKIP))
      ∨ (i = .pollTxsent ∧ s.c.pState = P_TXSENT ∧ v = s.cfg.sentinel ∧ after = P_WAITREPLY) →
    fsAssigned s.c.fsState = true →
    (s.c.busy = false → exec i s = .next { s with
      c := { s.c with srC := v, bitcntC := 8#4, divcntC := BitVec.ofNat 16 (s.cfg.halfBitTicks - 1),
                      unselC := false, rdy := false, busy := true, fsState := FS_DRIVE, pState := after } })
    ∧ (s.c.busy = true → exec i s = .next { s with
      c := { s.c with faultC := s.c.faultC ||| WCOL, pState := after } })

/-- `POLL.WAITDATA` and `POLL.SKIP` (R156): wait for `RDY`, read and discard the byte, and go on. That the read acts also
where `FS_STATE` is unassigned is the model's reading, notes/assumptions/9.md. -/
def Obligations.DataFrameIsWaitedOutAndDiscarded : Prop :=
  ∀ (s : State) (i : Instr) (here after : Code),
    (i = .pollWaitdata ∧ here = P_WAITDATA ∧ after = P_DESELECT)
      ∨ (i = .pollSkip ∧ here = P_SKIP ∧ after = P_NEXT) →
    s.c.pState = here →
    (s.c.rdy = false → exec i s = .next s)
    ∧ (s.c.rdy = true → exec i s = .next { s with c := { s.c with rdy := false, pState := after } })

/-- `POLL.DESELECT` and `POLL.SETTLE` (R157, R158), with `CS.DEASSERT` (R134) written out. -/
def Obligations.DeselectThenSettle : Prop :=
  ∀ s : State,
    (s.c.pState = P_DESELECT → s.c.csState ≠ CS_STABLE → exec .pollDeselect s = .next s)
    ∧ (s.c.pState = P_DESELECT → s.c.csState = CS_STABLE → csLine s.c.csN s.c.slot = false →
      exec .pollDeselect s = .next { s with
        c := { s.c with faultC := if s.c.busy then s.c.faultC ||| CS_IN_FRAME else s.c.faultC,
                        csN := s.c.csN ||| lineMask s.c.slot, settleCnt := BitVec.ofNat 32 s.cfg.settleTicks,
                        csState := CS_SETTLING, pState := P_SETTLE } })
    ∧ (s.c.pState = P_DESELECT → s.c.csState = CS_STABLE → csLine s.c.csN s.c.slot = true →
      exec .pollDeselect s = .next { s with
        c := { s.c with faultC := if s.c.busy then s.c.faultC ||| CS_IN_FRAME else s.c.faultC,
                        pState := P_SETTLE } })
    ∧ (s.c.pState = P_SETTLE → s.c.csState ≠ CS_STABLE → exec .pollSettle s = .next s)
    ∧ (s.c.pState = P_SETTLE → s.c.csState = CS_STABLE →
      exec .pollSettle s = .next { s with c := { s.c with pState := P_RESELECT } })

/-- `POLL.WAITREPLY` and `POLL.RECEIVE` (R161, R162): the received byte is the poll result. That the read acts also where
`FS_STATE` is unassigned is the model's reading, notes/assumptions/9.md. -/
def Obligations.ReplyIsWaitedForAndReceived : Prop :=
  ∀ s : State,
    (s.c.pState = P_WAITREPLY → s.c.rdy = false → exec .pollWaitreply s = .next s)
    ∧ (s.c.pState = P_WAITREPLY → s.c.rdy = true →
      exec .pollWaitreply s = .next { s with c := { s.c with pState := P_RECEIVE } })
    ∧ (s.c.pState = P_RECEIVE →
      exec .pollReceive s = .next { s with
        c := { s.c with reply := s.c.rxbufC, rdy := false, pState := P_DISPLAY } })

/-- `POLL.DISPLAY` and `POLL.NEXT` (R163, R164). -/
def Obligations.DisplayThenNextSlotOrIteration : Prop :=
  ∀ s : State,
    (s.c.pState = P_DISPLAY → (s.cfg.slot s.c.slot).display = true →
      exec .pollDisplay s = .next { s with c := { s.c with ledC := s.c.reply, pState := P_NEXT } })
    ∧ (s.c.pState = P_DISPLAY → (s.cfg.slot s.c.slot).display = false →
      exec .pollDisplay s = .next { s with c := { s.c with pState := P_NEXT } })
    ∧ (s.c.pState = P_NEXT → s.c.slot.toNat + 1 < s.cfg.nResp →
      exec .pollNext s = .next { s with c := { s.c with slot := s.c.slot + 1#1, pState := P_EXCL } })
    ∧ (s.c.pState = P_NEXT → s.cfg.nResp ≤ s.c.slot.toNat + 1 →
      exec .pollNext s = .next { s with
        c := { s.c with slot := 0#1, guardCnt := BitVec.ofNat 32 s.cfg.adcGuardTicks, pState := P_GUARD } })

/-- The path of POLL (R166): whatever operation runs, `P_STATE` stays or moves to a successor, which depends on whether
the slot is polled; and only POLL's own words, a tick of C, the `EV.DELIVER` that ends its delay (with `unit=POLL`, or
without an operand) and a reset move it. -/
def Obligations.PollFollowsItsStatePath : Prop :=
  ∀ (i : Instr) (s t : State), exec i s = .next t → i ≠ .evReset → t.c.pState ≠ s.c.pState →
    (i.unit = .poll ∨ i = .evTick .c ∨ i = .evDeliver (some .poll) ∨ i = .evDeliver none)
    ∧ ((s.c.pState = P_GUARD ∧ t.c.pState = P_SAMPLE) ∨ (s.c.pState = P_SAMPLE ∧ t.c.pState = P_EXCL)
      ∨ (s.c.pState = P_EXCL ∧ t.c.pState = P_SELECT) ∨ (s.c.pState = P_SELECT ∧ t.c.pState = P_TXDATA)
      ∨ (s.c.pState = P_TXDATA ∧ t.c.pState =
          if (s.cfg.slot s.c.slot).polled then P_WAITDATA else P_SKIP)
      ∨ (s.c.pState = P_WAITDATA ∧ t.c.pState = P_DESELECT) ∨ (s.c.pState = P_DESELECT ∧ t.c.pState = P_SETTLE)
      ∨ (s.c.pState = P_SETTLE ∧ t.c.pState = P_RESELECT) ∨ (s.c.pState = P_RESELECT ∧ t.c.pState = P_TXSENT)
      ∨ (s.c.pState = P_TXSENT ∧ t.c.pState = P_WAITREPLY)
      ∨ (s.c.pState = P_WAITREPLY ∧ t.c.pState = P_RECEIVE) ∨ (s.c.pState = P_RECEIVE ∧ t.c.pState = P_DISPLAY)
      ∨ (s.c.pState = P_DISPLAY ∧ t.c.pState = P_NEXT) ∨ (s.c.pState = P_SKIP ∧ t.c.pState = P_NEXT)
      ∨ (s.c.pState = P_NEXT ∧ t.c.pState = if s.c.slot.toNat + 1 < s.cfg.nResp then P_EXCL else P_GUARD))

-- RESP

/-- `RESP.PINDET` (R181): a change of an enabled pin sets `EDGE_F`, a change of a disabled one only `PIN_LAST`,
where RESP holds an assigned code (R90). -/
def Obligations.EnabledPinChangeSetsTheEdgeFlag : Prop :=
  ∀ (s : State) (k : Slot), s.cfg.hasSlot k = true → (s.cfg.slot k).variant = .counterDisplay →
    respAssigned (s.rnode k).rState = true →
    let r := s.rnode k
    let cur : BitVec 2 := BitVec.ofBool r.decN ++ BitVec.ofBool r.incN
    ((cur ^^^ r.pinLast) &&& r.edgeEn ≠ 0#2 →
      exec (.respPindet k) s = .next (s.setRnode k { r with edgeF := true, pinLast := cur }))
    ∧ ((cur ^^^ r.pinLast) &&& r.edgeEn = 0#2 →
      exec (.respPindet k) s = .next (s.setRnode k { r with pinLast := cur }))

/-- `RESP.IDLE` (R182): dispatch while a source of the responder's variant is pending. -/
def Obligations.PendingSourceIsDispatched : Prop :=
  ∀ (s : State) (k : Slot), s.cfg.hasSlot k = true → (s.rnode k).rState = R_IDLE →
    (((s.rnode k).irqfRx = true ∨ ((s.cfg.slot k).variant = .counterDisplay ∧ (s.rnode k).edgeF = true)) →
      exec (.respIdle k) s = .next (s.setRnode k { s.rnode k with rState := R_SERVICE }))
    ∧ (¬((s.rnode k).irqfRx = true ∨ ((s.cfg.slot k).variant = .counterDisplay ∧ (s.rnode k).edgeF = true)) →
      exec (.respIdle k) s = .next s)

/-- `RESP.SERVICE` (R183): the service is the edge handler where its flag is pending, then the bus-receive handler of the
variant where its flag is pending, then the return to `R_IDLE`, in one step. -/
def Obligations.ServiceRunsPendingHandlersEdgeFirst : Prop :=
  ∀ (s : State) (k : Slot), s.cfg.hasSlot k = true → (s.rnode k).rState = R_SERVICE →
    ∃ t, runOps
        ((if (s.cfg.slot k).variant = .counterDisplay ∧ (s.rnode k).edgeF = true then [.respHEdge k] else [])
          ++ (if (s.rnode k).irqfRx = true then
                match (s.cfg.slot k).variant with
                | .counterDisplay => [.respHRxDisplay k]
                | .pwm => [.respHRxPwm k]
              else [])) s = .next t
      ∧ exec (.respService k) s = .next (t.setRnode k { t.rnode k with rState := R_IDLE })

/-- `RESP.H_EDGE` (R184): at most one adjustment, increment first, modulo 256, then `EDGE_F` cleared, where RESP holds an
assigned code (R90). -/
def Obligations.EdgeHandlerAdjustsTheCounterOnce : Prop :=
  ∀ (s : State) (k : Slot), s.cfg.hasSlot k = true → (s.cfg.slot k).variant = .counterDisplay →
    respAssigned (s.rnode k).rState = true →
    let r := s.rnode k
    exec (.respHEdge k) s = .next (s.setRnode k { r with
      counter :=
        if r.edgeEn.getLsbD 0 = true ∧ r.incN = false then r.counter + 1#8
        else if r.edgeEn.getLsbD 1 = true ∧ r.decN = false then r.counter - 1#8
        else r.counter
      edgeF := false })

/-- `RESP.H_RX_DISPLAY` (R185): the inbound byte is shown, the counter staged as the reply or refused with WCOL_R, the
flags cleared, where RESP holds an assigned code (R90). -/
def Obligations.DisplayHandlerShowsAndStages : Prop :=
  ∀ (s : State) (k : Slot), s.cfg.hasSlot k = true → (s.cfg.slot k).variant = .counterDisplay →
    respAssigned (s.rnode k).rState = true →
    let r := s.rnode k
    (r.bitcntR = 0#4 → exec (.respHRxDisplay k) s = .next (s.setRnode k
      { r with rxf := false, ledR := r.rxbufR, srR := r.counter, irqfRx := false }))
    ∧ (r.bitcntR ≠ 0#4 → exec (.respHRxDisplay k) s = .next (s.setRnode k
      { r with rxf := false, ledR := r.rxbufR, faultR := r.faultR ||| WCOL_R, irqfRx := false }))

/-- `RESP.H_RX_PWM` and `RESP.PWMSPLIT` (R186, R188), and the port `duty` (R37): the duty is the mapped byte, split over both
fields; no reply is staged. Both where RESP holds an assigned code (R90). The split itself, bits 9:2 and 1:0, the spec marks
as general knowledge, not in its source (spec/93 I16). -/
def Obligations.PwmHandlerWritesTheSplitDuty : Prop :=
  ∀ (s : State) (k : Slot) (d : BitVec 10), s.cfg.hasSlot k = true → (s.cfg.slot k).variant = .pwm →
    respAssigned (s.rnode k).rState = true →
    let r := s.rnode k
    let m := linmap s.cfg (s.cfg.slot k) r.rxbufR
    exec (.respHRxPwm k) s = .next (s.setRnode k
      { r with rxf := false, dutyH := m.extractLsb' 2 8, dutyL := m.extractLsb' 0 2, irqfRx := false })
    ∧ exec (.respPwmsplit k d) s = .next (s.setRnode k
      { r with dutyH := d.extractLsb' 2 8, dutyL := d.extractLsb' 0 2 })
    ∧ (r.pwmsplit d).duty = d

/-- `RESP.LINMAP` (R187) is the spec's exact integer form and stays between `OUT_MIN` and `OUT_MAX`, rising or falling,
where RESP holds an assigned code (R90). That the value stands in the model's `result` is the model's choice, notes/assumptions/6.md. -/
def Obligations.LinearMapIsTheExactIntegerForm : Prop :=
  ∀ (s : State) (k : Slot) (x : Byte), s.cfg.hasSlot k = true → s.cfg.inMin = 0 → s.cfg.inMax = 255 →
    (s.cfg.slot k).outMin ≤ 1023 → (s.cfg.slot k).outMax ≤ 1023 → respAssigned (s.rnode k).rState = true →
    let lo : Int := (s.cfg.slot k).outMin
    let hi : Int := (s.cfg.slot k).outMax
    let q : Int := (hi - lo) * (x.toNat : Int)
    ∃ d : BitVec 10, exec (.respLinmap k x) s = .next { s with result := d }
      ∧ (d.toNat : Int) = lo + (if 0 ≤ q then (2 * q + 255) / 510 else -((2 * (-q) + 255) / 510))
      ∧ min lo hi ≤ (d.toNat : Int) ∧ (d.toNat : Int) ≤ max lo hi

/-- The linear-map laws (R191): non-decreasing for a rising range, and the ends of the range at 0 and 255. -/
def Obligations.LinearMapIsMonotoneWithExactEnds : Prop :=
  ∀ (cfg : Config) (sc : SlotConfig), cfg.inMin = 0 → cfg.inMax = 255 → sc.outMin ≤ 1023 → sc.outMax ≤ 1023 →
    (sc.outMin ≤ sc.outMax → ∀ x y : Byte, x.toNat ≤ y.toNat →
      (linmap cfg sc x).toNat ≤ (linmap cfg sc y).toNat)
    ∧ (linmap cfg sc 0#8).toNat = sc.outMin ∧ (linmap cfg sc 255#8).toNat = sc.outMax

/-- The counter law (R190): after `n` presses of INC and then `m` of DEC, each serviced while held with no other pin
asserted, the counter is `(s + n − m) mod 256`. -/
def Obligations.CounterLaw : Prop :=
  ∀ (s : State) (k : Slot) (n m : Nat), s.cfg.hasSlot k = true → (s.cfg.slot k).variant = .counterDisplay →
    (s.rnode k).edgeEn = 0b11#2 → (s.rnode k).pinLast = 0b11#2 → (s.rnode k).incN = true →
    (s.rnode k).decN = true → (s.rnode k).edgeF = false → (s.rnode k).irqfRx = false →
    (s.rnode k).rState = R_IDLE →
      runOps (presses k .inc n ++ presses k .dec m) s =
        .next (s.setRnode k { s.rnode k with
          counter := (s.rnode k).counter + BitVec.ofNat 8 n - BitVec.ofNat 8 m })

-- SAMPLER

/-- `SMP.IDLE`, `SMP.ISR` and `SMP.START` (R211, R212, R213): the result is copied where the configured channel is the
expected one, and the completion flag is always cleared, where SAMPLER holds its assigned code. That `SMP.START`, which
POLL invokes, acts whatever `S_STATE` holds is the model's reading, notes/assumptions/9.md. -/
def Obligations.SamplerCopiesTheExpectedChannel : Prop :=
  ∀ s : State,
    let isr : State := { s with
      c := { s.c with sampled := if s.c.adcChsel = s.cfg.expectedCh then s.c.adres else s.c.sampled,
                      adif := false } }
    (s.c.sState = S_IDLE → exec .smpIsr s = .next isr)
    ∧ (s.c.sState = S_IDLE → s.c.adif = true → exec .smpIdle s = .next isr)
    ∧ (s.c.sState = S_IDLE → s.c.adif = false → exec .smpIdle s = .next s)
    ∧ exec .smpStart s = .next { s with c := { s.c with adcStart := true, adcBusy := true } }

-- Events

/-- `EV.ADC_DONE` and `EV.PIN` (R241, R242). Where `EV.ADC_DONE` is not enabled the state stays: the model's choice,
notes/assumptions/8.md. -/
def Obligations.ConversionAndPinEvents : Prop :=
  ∀ (s : State) (ch : BitVec 4) (res : Byte) (k : Slot) (level : Bool),
    (s.c.adcBusy = true → ch = s.c.adcChsel →
      exec (.evAdcDone ch res) s = .next { s with
        c := { s.c with adres := res, adcBusy := false, adif := true } })
    ∧ (¬(s.c.adcBusy = true ∧ ch = s.c.adcChsel) → exec (.evAdcDone ch res) s = .next s)
    ∧ (s.cfg.hasSlot k = true →
      exec (.evPin k .inc level) s = .next (s.setRnode k { s.rnode k with incN := level })
      ∧ exec (.evPin k .dec level) s = .next (s.setRnode k { s.rnode k with decN := level }))

/-- A tick of C (R243) is the step of the state FSEQ is in, then of the state CSMUX is in, then of the state POLL is in,
each word found by its state register's code (R80). The pulse on `adc_start` ends with the tick: the model's
choice, notes/assumptions/12.md. A time-abstract model has no ticks (R265); that EV.TICK there changes nothing, and is not refused,
is the model's choice too, notes/assumptions/8.md. -/
def Obligations.ControllerTickRunsItsUnitsInOrder : Prop :=
  ∀ (s : State) (p : Payload) (fi ci pi : Instr),
    (s.cfg.time = .tickAccurate →
      fsAssigned s.c.fsState = true → csAssigned s.c.csState = true → pollAssigned s.c.pState = true →
      decode (0b000#3 ++ s.c.fsState) p = some fi → decode (0b010#3 ++ s.c.csState) p = some ci →
      decode (0b011#3 ++ s.c.pState) p = some pi →
        ∃ t, exec (.evTick .c) s = .next t
          ∧ runOps [fi, ci, pi] { s with c := { s.c with adcStart := false } } = .next t)
    ∧ (s.cfg.time = .timeAbstract → exec (.evTick .c) s = .next s)

/-- A tick of `R_k` (R243) is `RS.CSEDGE`, then `RESP.PINDET`, then the step of the state RESP is in, which a draw may
delay: its service latency is a draw (R262, R265). A RESP with an unassigned code only raises ILLEGAL_STATE, by
`RESP.PINDET` in a `COUNTER_DISPLAY` responder and by its drawn step in any (R90, R189; that both words raise it is the
model's reading, notes/assumptions/9.md). A time-abstract model has no ticks; that EV.TICK there changes nothing, and is
not refused, is the model's choice, notes/assumptions/8.md. -/
def Obligations.ResponderTickRunsItsUnitsInOrder : Prop :=
  ∀ (s : State) (k : Slot) (i : Instr), s.cfg.hasSlot k = true →
    (s.cfg.time = .tickAccurate →
      (i = .respIdle k ∧ (s.rnode k).rState = R_IDLE) ∨ (i = .respService k ∧ (s.rnode k).rState = R_SERVICE)
          ∨ (i = .respIdle k ∧ respAssigned (s.rnode k).rState = false) →
        ∃ t u, runOps [.rsCsedge k, .respPindet k] s = .next t ∧ exec i t = .next u
          ∧ (exec (.evTick (.r k)) s = .next { t with drawIdx := t.drawIdx + 1 }
            ∨ exec (.evTick (.r k)) s = .next { u with drawIdx := u.drawIdx + 1 }))
    ∧ (s.cfg.time = .tickAccurate → respAssigned (s.rnode k).rState = false →
        ∃ t, exec (.evTick (.r k)) s = .next t ∧ t.c = s.c ∧ t.rnode (~~~k) = s.rnode (~~~k)
          ∧ (t.rnode k).rState = (s.rnode k).rState ∧ (t.rnode k).pinLast = (s.rnode k).pinLast
          ∧ (t.rnode k).edgeF = (s.rnode k).edgeF
          ∧ ((s.cfg.slot k).variant = .counterDisplay → (t.rnode k).faultR.getLsbD 2 = true))
    ∧ (s.cfg.time = .timeAbstract → exec (.evTick (.r k)) s = .next s)

/-- `EV.DELIVER` (R89, R244): ends a running delay of a time-abstract model, and is not enabled elsewhere, where the model
holds (its choice, notes/assumptions/8.md). With an operand it ends the delay of that unit; without one it ends the delay
that runs, and where both run one of the two (the model's reading, notes/assumptions/19.md). In a fair run every running
delay ends: fairness is the premise `Fair`, as R244 asks of a model, notes/assumptions/21.md. -/
def Obligations.DeliverEndsARunningDelay : Prop :=
  ∀ s : State,
    (s.cfg.time = .timeAbstract → s.c.csState = CS_SETTLING →
      exec (.evDeliver (some .csmux)) s = .next { s with c := { s.c with settleCnt := 0#32, csState := CS_STABLE } })
    ∧ (s.cfg.time = .timeAbstract → s.c.pState = P_GUARD →
      exec (.evDeliver (some .poll)) s = .next { s with c := { s.c with guardCnt := 0#32, pState := P_SAMPLE } })
    ∧ (s.cfg.time = .tickAccurate ∨ s.c.csState ≠ CS_SETTLING → exec (.evDeliver (some .csmux)) s = .next s)
    ∧ (s.cfg.time = .tickAccurate ∨ s.c.pState ≠ P_GUARD → exec (.evDeliver (some .poll)) s = .next s)
    ∧ (s.cfg.time = .timeAbstract → s.c.csState = CS_SETTLING → s.c.pState ≠ P_GUARD →
      exec (.evDeliver none) s = .next { s with c := { s.c with settleCnt := 0#32, csState := CS_STABLE } })
    ∧ (s.cfg.time = .timeAbstract → s.c.csState ≠ CS_SETTLING → s.c.pState = P_GUARD →
      exec (.evDeliver none) s = .next { s with c := { s.c with guardCnt := 0#32, pState := P_SAMPLE } })
    ∧ (s.cfg.time = .timeAbstract → s.c.csState = CS_SETTLING → s.c.pState = P_GUARD →
      exec (.evDeliver none) s = .next { s with
          c := { s.c with settleCnt := 0#32, csState := CS_STABLE }, drawIdx := s.drawIdx + 1 }
      ∨ exec (.evDeliver none) s = .next { s with
          c := { s.c with guardCnt := 0#32, pState := P_SAMPLE }, drawIdx := s.drawIdx + 1 })
    ∧ (s.cfg.time = .tickAccurate ∨ (s.c.csState ≠ CS_SETTLING ∧ s.c.pState ≠ P_GUARD) →
      exec (.evDeliver none) s = .next s)
    ∧ (∀ (moves : Nat → Instr) (run : Nat → State) (n : Nat), IsRun moves run → Fair moves run → run n = s →
        s.cfg.time = .timeAbstract →
        (s.c.csState = CS_SETTLING → ∃ m, n < m ∧ (run m).c.csState = CS_STABLE)
        ∧ (s.c.pState = P_GUARD → ∃ m, n < m ∧ (run m).c.pState = P_SAMPLE))

/-- `EV.RESET` (R250, R252): every register of every node takes its reset value; the draw-valued ones take some value,
which the statement leaves open. THE MODEL'S CHOICES in it: the configuration, the pending and the owed items stay (DESIGN
CHOICE), and the reset itself drives the pins to 1 (DEDUCED), notes/assumptions/15.md. -/
def Obligations.ResetLoadsEveryRegister : Prop :=
  ∀ s : State, ∃ t, exec .evReset s = .next t ∧ t.cfg = s.cfg ∧ t.script = s.script ∧ t.owed = s.owed
    ∧ t.c.fsState = FS_IDLE ∧ t.c.bitcntC = 0#4 ∧ t.c.divcntC = 0#16 ∧ t.c.rdy = false ∧ t.c.busy = false
    ∧ t.c.unselC = false ∧ t.c.stalledC = false ∧ t.c.sck = s.cfg.cpol ∧ t.c.mosi = true ∧ t.c.csN = 0b11#2
    ∧ t.c.csState = CS_STABLE ∧ t.c.settleCnt = 0#32 ∧ t.c.pState = P_GUARD ∧ t.c.slot = 0#1
    ∧ t.c.guardCnt = BitVec.ofNat 32 s.cfg.adcGuardTicks ∧ t.c.adcBusy = false ∧ t.c.adif = false
    ∧ t.c.adcChsel = s.cfg.adcCh ∧ t.c.sState = S_IDLE ∧ t.c.faultC = 0#8
    ∧ t.c.ctrlC = 0b000#3 ++ 0#1 ++ BitVec.ofBool s.cfg.cpha ++ BitVec.ofBool s.cfg.cpol ++ 1#1 ++ 1#1
    ∧ ∀ k : Slot,
        let r := t.rnode k
        r.bitcntR = 0#4 ∧ r.rxf = false ∧ r.irqfRx = false ∧ r.csSeen = true ∧ r.rState = R_IDLE
        ∧ r.counter = s.cfg.counterSeed ∧ r.edgeF = false ∧ r.pinLast = 0b11#2
        ∧ r.edgeEn = (s.cfg.slot k).edgeEn ∧ r.pwmPr = (s.cfg.slot k).pwmPeriod ∧ r.faultR = 0#8
        ∧ r.incN = true ∧ r.decN = true
        ∧ r.ctrlR = 0b000#3 ++ 1#1 ++ BitVec.ofBool (s.cfg.slot k).cpha ++ BitVec.ofBool (s.cfg.slot k).cpol
            ++ 0#1 ++ 1#1

-- Whole-machine rules

/-- A word that only the unit itself invokes, of a unit whose state register holds an unassigned code, raises ILLEGAL_STATE
and does nothing else (R90, R165, R189): the words of its states, and of RESP and SAMPLER their other words too, and a
write of `BUF_C`. Which words those are is the model's reading of R90, notes/assumptions/9.md. -/
def Obligations.UnassignedCodesRaiseIllegalState : Prop :=
  ∀ (s : State) (i : Instr),
    (((i.unit = .poll ∧ pollAssigned s.c.pState = false)
        ∨ (i.unit = .fseq ∧ i.kind = .state ∧ s.c.stalledC = false ∧ fsAssigned s.c.fsState = false)
        ∨ ((∃ v, i = .fsBufw v) ∧ fsAssigned s.c.fsState = false)
        ∨ (i.unit = .csmux ∧ i.kind = .state ∧ csAssigned s.c.csState = false)
        ∨ ((i = .smpIdle ∨ i = .smpIsr) ∧ smpAssigned s.c.sState = false)) →
      exec i s = .next { s with c := { s.c with faultC := s.c.faultC ||| ILLEGAL_STATE_C } })
    ∧ (∀ k : Slot, s.cfg.hasSlot k = true → respAssigned (s.rnode k).rState = false →
        (i = .respIdle k ∨ i = .respService k ∨ ∃ x, i = .respLinmap k x)
          ∨ ((s.cfg.slot k).variant = .counterDisplay ∧
              (i = .respPindet k ∨ i = .respHEdge k ∨ i = .respHRxDisplay k))
          ∨ ((s.cfg.slot k).variant = .pwm ∧ (i = .respHRxPwm k ∨ ∃ d, i = .respPwmsplit k d)) →
      exec i s = .next (s.setRnode k { s.rnode k with faultR := (s.rnode k).faultR ||| ILLEGAL_STATE_R }))

/-- An operation that is not enabled leaves the state as it is: a state's word where the unit is in another assigned state,
any FSEQ state word while FSEQ is stalled, and a word of the other responder variant. That the model holds there and
does not stop is its choice, notes/assumptions/8.md and 13.md. -/
def Obligations.OperationsThatAreNotEnabledHold : Prop :=
  ∀ (s : State) (i : Instr),
    (i.unit = .fseq → i.kind = .state →
      s.c.stalledC = true ∨ (fsAssigned s.c.fsState = true ∧ encodeWord i ≠ 0b000#3 ++ s.c.fsState) →
        exec i s = .next s)
    ∧ (i.unit = .csmux → i.kind = .state → csAssigned s.c.csState = true →
        encodeWord i ≠ 0b010#3 ++ s.c.csState → exec i s = .next s)
    ∧ (i.unit = .poll → pollAssigned s.c.pState = true → encodeWord i ≠ 0b011#3 ++ s.c.pState →
        exec i s = .next s)
    ∧ (∀ k : Slot, s.cfg.hasSlot k = true →
        ((i = .respIdle k ∨ i = .respService k) → respAssigned (s.rnode k).rState = true →
          encodeWord i ≠ 0b100#3 ++ (s.rnode k).rState → exec i s = .next s)
        ∧ ((s.cfg.slot k).variant = .pwm → i = .respHEdge k ∨ i = .respHRxDisplay k ∨ i = .respPindet k →
          exec i s = .next s)
        ∧ ((s.cfg.slot k).variant = .counterDisplay → i = .respHRxPwm k ∨ (∃ d, i = .respPwmsplit k d) →
          exec i s = .next s))

/-- A stuck unit stays stuck until reset: a state register with an unassigned code keeps it and the registers that only the
unit writes keep their values (R90, R226, R22), and a stalled FSEQ with a frame in flight keeps its state and never sets
`RDY` (R106, R229). That `RESP.PINDET`, the other words of RESP and `SMP.ISR` are stopped with their unit, so that `PIN_LAST`
and `EDGE_F` stay beside an unassigned `R_STATE` and `SAMPLED` beside an unassigned `S_STATE`, is the model's reading,
notes/assumptions/9.md. -/
def Obligations.StuckUnitsStayStuckUntilReset : Prop :=
  ∀ (i : Instr) (s t : State), exec i s = .next t → i ≠ .evReset →
    (fsAssigned s.c.fsState = false → t.c.fsState = s.c.fsState)
    ∧ (csAssigned s.c.csState = false → t.c.csState = s.c.csState)
    ∧ (pollAssigned s.c.pState = false → t.c.pState = s.c.pState)
    ∧ (smpAssigned s.c.sState = false → t.c.sState = s.c.sState ∧ t.c.sampled = s.c.sampled)
    ∧ (∀ k : Slot, respAssigned (s.rnode k).rState = false →
        (t.rnode k).rState = (s.rnode k).rState ∧ (t.rnode k).counter = (s.rnode k).counter
        ∧ (t.rnode k).ledR = (s.rnode k).ledR ∧ (t.rnode k).dutyH = (s.rnode k).dutyH
        ∧ (t.rnode k).dutyL = (s.rnode k).dutyL ∧ (t.rnode k).pinLast = (s.rnode k).pinLast
        ∧ ((s.rnode k).edgeF = false → (t.rnode k).edgeF = false))
    ∧ (s.c.stalledC = true → s.c.busy = true →
        t.c.stalledC = true ∧ t.c.busy = true ∧ t.c.fsState = s.c.fsState ∧ (s.c.rdy = false → t.c.rdy = false))

/-- Fault bits are sticky: only `EV.RESET` clears one (R226, R228). -/
def Obligations.OnlyResetClearsAFaultBit : Prop :=
  ∀ (i : Instr) (s t : State), exec i s = .next t → i ≠ .evReset →
    s.c.faultC &&& ~~~t.c.faultC = 0#8
      ∧ ∀ k : Slot, (s.rnode k).faultR &&& ~~~(t.rnode k).faultR = 0#8

/-- The sole writers of R22, R30 and R34: only the sampler changes `SAMPLED`, only the edge handler `COUNTER`, only POLL
`REPLY` and `LED_C`, only the PWM handler the duty; a tick of the node runs its units. -/
def Obligations.RegistersHaveTheirSoleWriters : Prop :=
  ∀ (i : Instr) (s t : State), exec i s = .next t → i ≠ .evReset →
    (t.c.sampled ≠ s.c.sampled → i = .smpIsr ∨ i = .smpIdle)
    ∧ (t.c.reply ≠ s.c.reply → i = .pollReceive ∨ i = .evTick .c)
    ∧ (t.c.ledC ≠ s.c.ledC → i = .pollDisplay ∨ i = .evTick .c)
    ∧ (∀ k : Slot,
        ((t.rnode k).counter ≠ (s.rnode k).counter →
          i = .respHEdge k ∨ i = .respService k ∨ i = .evTick (.r k))
        ∧ ((t.rnode k).ledR ≠ (s.rnode k).ledR →
          i = .respHRxDisplay k ∨ i = .respService k ∨ i = .evTick (.r k))
        ∧ ((t.rnode k).duty ≠ (s.rnode k).duty →
          i = .respHRxPwm k ∨ i = .respService k ∨ i = .evTick (.r k) ∨ ∃ d, i = .respPwmsplit k d))

/-- The configuration is no step's to change (R20), and the registers loaded from it keep its values (R29, R33). -/
def Obligations.StepsKeepTheConfiguration : Prop :=
  ∀ s t : State, step s = .next t → t.cfg = s.cfg ∧ (ConfigLoaded s → ConfigLoaded t)

/-- The invariant of the machine is kept by every step: at most one line low, the frame sequencer coherent, every state
code assigned, `SLOT` in range, bit counts in range, CONTENTION, ILLEGAL_STATE and the reserved fault bits never set,
configuration registers as loaded. -/
def Obligations.StepsKeepTheInvariant : Prop :=
  ∀ s t : State, Inv s → step s = .next t → Inv t

/-- The invariant holds right after reset, in every configuration that has a run and in the default one. -/
def Obligations.ResetMeetsTheInvariant : Prop :=
  (∀ cfg : Config, cfg.ok = true → Inv (State.resetWith cfg))
    ∧ Inv State.reset ∧ safe State.reset = true ∧ State.reset.cfg.ok = true

/-- The round trip (R168), case (a) of the reply race (R262), where time is abstract: `R_k` services the data frame before
the reply frame, so the reply C receives and displays is the counter at that service, whatever the data byte was,
and no fault bit is set. -/
def Obligations.ServicedReplyIsTheCounter : Prop :=
  ∀ (s : State) (k : Slot),
    s.cfg.time = .timeAbstract → s.cfg.hasSlot k = true → (s.cfg.slot k).variant = .counterDisplay →
    s.c.pState = P_DESELECT → s.c.slot = k → s.c.csState = CS_STABLE → s.c.stalledC = false →
    s.c.fsState = FS_IDLE → s.c.busy = false → s.selected k = true → s.selected (~~~k) = false →
    (s.rnode k).rState = R_IDLE → (s.rnode k).irqfRx = true → (s.rnode k).edgeF = false →
    (s.rnode k).bitcntR = 0#4 →
      ∃ t, runOps ([.respIdle k, .respService k, .pollDeselect, .rsCsedge k, .evDeliver (some .csmux), .pollSettle,
          .pollReselect, .rsCsedge k, .pollTxsent] ++ frameOps ++ [.pollWaitreply, .pollReceive, .pollDisplay]) s
          = .next t
        ∧ t.c.reply = (s.rnode k).counter ∧ t.c.pState = P_NEXT
        ∧ ((s.cfg.slot k).display = true → t.c.ledC = (s.rnode k).counter)
        ∧ t.c.faultC = s.c.faultC ∧ (t.rnode k).faultR = (s.rnode k).faultR
        ∧ (t.rnode k).ledR = (s.rnode k).rxbufR ∧ (t.rnode k).rxbufR = s.cfg.sentinel
        ∧ (t.rnode k).irqfRx = true

/-- Case (c) of the reply race (R262): with no service before the reply frame has completed, C receives the byte left in
`SR_R`, and OVF is raised where the data byte was unread. -/
def Obligations.UnservicedReplyIsTheByteLeftInTheShiftRegister : Prop :=
  ∀ (s : State) (k : Slot),
    s.cfg.time = .timeAbstract → s.cfg.hasSlot k = true →
    s.c.pState = P_DESELECT → s.c.slot = k → s.c.csState = CS_STABLE → s.c.stalledC = false →
    s.c.fsState = FS_IDLE → s.c.busy = false → s.selected k = true → s.selected (~~~k) = false →
    (s.rnode k).rxf = true → (s.rnode k).bitcntR = 0#4 →
      ∃ t, runOps ([.pollDeselect, .rsCsedge k, .evDeliver (some .csmux), .pollSettle, .pollReselect, .rsCsedge k,
          .pollTxsent] ++ frameOps ++ [.pollWaitreply, .pollReceive, .pollDisplay]) s = .next t
        ∧ t.c.reply = (s.rnode k).srR ∧ t.c.faultC = s.c.faultC
        ∧ (t.rnode k).faultR = (s.rnode k).faultR ||| OVF ∧ (t.rnode k).rxbufR = (s.rnode k).rxbufR
        ∧ (t.rnode k).srR = s.cfg.sentinel
end

