-- ==== Sys2Proof/Tests/Slice0.lean ====
section
/-! SUPPORT. Tests of the model against the spec's own tables and vectors (spec/30_encoding.md, spec/95_test_vectors.md
V1–V70), and for every statement with hypotheses a concrete state that meets them. The expected values are the
spec's. -/

namespace Sys2Proof
namespace Machine
namespace Tests

-- Small states

/-- Reset, two responders (slot 0 `PWM`, slot 1 `COUNTER_DISPLAY`), time abstract. -/
abbrev two : State := State.reset
/-- Reset, one responder (slot 0 `COUNTER_DISPLAY`), time abstract. -/
abbrev one : State := State.resetWith Config.oneResponder
/-- Reset, two responders, counting ticks. -/
abbrev ticking : State := State.resetWith { Config.twoResponders with time := .tickAccurate }

/-- A state with slot `k` selected. -/
abbrev sel (k : Slot) (s : State) : State := s.mapC fun c => { c with csN := c.csN &&& ~~~lineMask k }
/-- A state with FSEQ in state `code`. -/
abbrev inFs (code : Code) (s : State) : State := s.mapC fun c => { c with fsState := code }
/-- A state with CSMUX in state `code`. -/
abbrev inCs (code : Code) (s : State) : State := s.mapC fun c => { c with csState := code }
/-- A state with POLL in state `code`. -/
abbrev inP (code : Code) (s : State) : State := s.mapC fun c => { c with pState := code }
/-- A state with RESP of `R_k` in state `code`. -/
abbrev inR (k : Slot) (code : Code) (s : State) : State := s.mapR k fun r => { r with rState := code }
/-- A state with a frame in flight. -/
abbrev sending (s : State) : State := s.mapC fun c => { c with busy := true }
/-- A state with one pending item. -/
abbrev pend (item : ScriptItem) (s : State) : State := { s with script := [item] }
/-- A state built with another configuration. -/
abbrev cfgd (cfg : Config) (s : State) : State := { s with cfg := cfg }

/-- A view of the next state, where there is one. -/
def ran {α : Type} (view : State → α) : Result → Option α
  | .next t => some (view t)
  | .fault _ => none
  | .refused _ => none

/-- `n` steps, as far as they answer a next state. -/
def steps : Nat → State → Result
  | 0, s => .next s
  | n + 1, s =>
    match step s with
    | .next t => steps n t
    | r => r

/-- Why an operation was refused, where it was. -/
def why : Result → Option Refusal
  | .next _ => none
  | .fault _ => none
  | .refused r => some r

-- WellFormed refuses an ill-formed operation: a slot the machine does not have (R90, R91)

theorem smoke_assert : (Instr.csAssert 1#1).wellFormed Config.oneResponder = false := by decide
theorem smoke_deassert : (Instr.csDeassert 1#1).wellFormed Config.oneResponder = false := by decide
theorem smoke_responder : (Instr.rsShift 1#1 true).wellFormed Config.oneResponder = false := by decide
theorem smoke_handler : (Instr.respLinmap 1#1 0#8).wellFormed Config.oneResponder = false := by decide
theorem smoke_pin : (Instr.evPin 1#1 .inc false).wellFormed Config.oneResponder = false := by decide
theorem smoke_tick : (Instr.evTick (.r 1#1)).wellFormed Config.oneResponder = false := by decide
theorem smoke_slot_zero : (Instr.csAssert 0#1).wellFormed Config.oneResponder = true := by decide
theorem smoke_no_slot : (Instr.evTick .c).wellFormed Config.oneResponder = true := by decide

-- The configuration checks refuse a configuration that has no run (R253; V34)

theorem smoke_settle : ({ Config.twoResponders with settleTicks := 1, halfBitTicks := 1 } : Config).ok = false := by
  decide
theorem smoke_half_bit : ({ Config.twoResponders with halfBitTicks := 0 } : Config).ok = false := by decide
theorem smoke_slots : ({ Config.twoResponders with nResp := 3 } : Config).ok = false
    ∧ ({ Config.twoResponders with nResp := 0 } : Config).ok = false := by decide
theorem smoke_mode : ({ Config.twoResponders with cpol := true } : Config).ok = false
    ∧ ({ Config.twoResponders with cpha := true } : Config).ok = false := by decide
theorem smoke_range :
    ({ Config.oneResponder with slot0 := { Config.counterSlot with outMax := 1024 } } : Config).ok = false
    ∧ ({ Config.oneResponder with slot0 := { Config.counterSlot with outMin := 1024 } } : Config).ok = false := by
  decide
theorem smoke_input : ({ Config.twoResponders with inMin := 1 } : Config).ok = false
    ∧ ({ Config.twoResponders with inMax := 254 } : Config).ok = false := by decide
theorem smoke_width :
    ({ Config.twoResponders with time := .tickAccurate, halfBitTicks := 65537, settleTicks := 131074 } : Config).ok = false
    ∧ ({ Config.twoResponders with time := .tickAccurate, adcGuardTicks := 4294967296 } : Config).ok = false := by decide
/-- Where time is abstract nothing is counted (R50, R265): R253 alone decides. -/
theorem smoke_abstract_width :
    ({ Config.twoResponders with halfBitTicks := 65537, settleTicks := 131074 } : Config).ok = true
    ∧ ({ Config.twoResponders with halfBitTicks := 65538, settleTicks := 131075 } : Config).ok = false := by decide
theorem smoke_defaults : Config.twoResponders.ok = true ∧ Config.oneResponder.ok = true := by decide

-- Decoding: every word, its bits written as unit ++ code from R83–R89

theorem test_decode_fseq :
    decode (0b000#3 ++ 0b00000#5) Payload.zero = some .fsIdle
    ∧ decode (0b000#3 ++ 0b00001#5) Payload.zero = some .fsDrive
    ∧ decode (0b000#3 ++ 0b00010#5) Payload.zero = some .fsSample
    ∧ decode (0b000#3 ++ 0b00011#5) Payload.zero = some .fsComplete
    ∧ decode (0b000#3 ++ 0b01000#5) { Payload.zero with v := 0xC8#8 } = some (.fsBufw 0xC8#8)
    ∧ decode (0b000#3 ++ 0b01001#5) Payload.zero = some .fsBufr := by decide

theorem test_decode_rshift :
    decode (0b001#3 ++ 0b00000#5) { Payload.zero with k := 1#1, bit := true } = some (.rsShift 1#1 true)
    ∧ decode (0b001#3 ++ 0b00001#5) { Payload.zero with k := 1#1 } = some (.rsCsedge 1#1)
    ∧ decode (0b001#3 ++ 0b00010#5) { Payload.zero with k := 1#1 } = some (.rsComplete 1#1)
    ∧ decode (0b001#3 ++ 0b01000#5) { Payload.zero with k := 1#1 } = some (.rsBufr 1#1)
    ∧ decode (0b001#3 ++ 0b01001#5) { Payload.zero with k := 1#1, v := 8#8 } = some (.rsBufw 1#1 8#8)
    ∧ decode (0b001#3 ++ 0b01010#5) { Payload.zero with k := 1#1, v := 2#8 } = some (.rsIrqclr 1#1 2#8) := by
  decide

theorem test_decode_csmux :
    decode (0b010#3 ++ 0b00000#5) Payload.zero = some .csStable
    ∧ decode (0b010#3 ++ 0b00001#5) Payload.zero = some .csSettling
    ∧ decode (0b010#3 ++ 0b01000#5) Payload.zero = some (.csAssert 0#1)
    ∧ decode (0b010#3 ++ 0b01001#5) Payload.zero = some (.csAssert 1#1)
    ∧ decode (0b010#3 ++ 0b01100#5) Payload.zero = some (.csDeassert 0#1)
    ∧ decode (0b010#3 ++ 0b01101#5) Payload.zero = some (.csDeassert 1#1)
    ∧ decode (0b010#3 ++ 0b10000#5) Payload.zero = some .csRead := by decide

theorem test_decode_poll :
    decode (0b011#3 ++ 0b00000#5) Payload.zero = some .pollGuard
    ∧ decode (0b011#3 ++ 0b00001#5) Payload.zero = some .pollSample
    ∧ decode (0b011#3 ++ 0b00010#5) Payload.zero = some .pollExcl
    ∧ decode (0b011#3 ++ 0b00011#5) Payload.zero = some .pollSelect
    ∧ decode (0b011#3 ++ 0b00100#5) Payload.zero = some .pollTxdata
    ∧ decode (0b011#3 ++ 0b00101#5) Payload.zero = some .pollWaitdata
    ∧ decode (0b011#3 ++ 0b00110#5) Payload.zero = some .pollDeselect
    ∧ decode (0b011#3 ++ 0b00111#5) Payload.zero = some .pollSettle
    ∧ decode (0b011#3 ++ 0b01000#5) Payload.zero = some .pollReselect
    ∧ decode (0b011#3 ++ 0b01001#5) Payload.zero = some .pollTxsent
    ∧ decode (0b011#3 ++ 0b01010#5) Payload.zero = some .pollWaitreply
    ∧ decode (0b011#3 ++ 0b01011#5) Payload.zero = some .pollReceive
    ∧ decode (0b011#3 ++ 0b01100#5) Payload.zero = some .pollDisplay
    ∧ decode (0b011#3 ++ 0b01101#5) Payload.zero = some .pollNext
    ∧ decode (0b011#3 ++ 0b01110#5) Payload.zero = some .pollSkip := by decide

theorem test_decode_resp :
    decode (0b100#3 ++ 0b00000#5) { Payload.zero with k := 1#1 } = some (.respIdle 1#1)
    ∧ decode (0b100#3 ++ 0b00001#5) { Payload.zero with k := 1#1 } = some (.respService 1#1)
    ∧ decode (0b100#3 ++ 0b01000#5) { Payload.zero with k := 1#1 } = some (.respHEdge 1#1)
    ∧ decode (0b100#3 ++ 0b01001#5) { Payload.zero with k := 1#1 } = some (.respHRxDisplay 1#1)
    ∧ decode (0b100#3 ++ 0b01010#5) { Payload.zero with k := 1#1 } = some (.respHRxPwm 1#1)
    ∧ decode (0b100#3 ++ 0b10000#5) { Payload.zero with k := 1#1, v := 3#8 } = some (.respLinmap 1#1 3#8)
    ∧ decode (0b100#3 ++ 0b10001#5) { Payload.zero with k := 1#1, d := 1023#10 } = some (.respPwmsplit 1#1 1023#10)
    ∧ decode (0b100#3 ++ 0b11000#5) { Payload.zero with k := 1#1 } = some (.respPindet 1#1) := by decide

theorem test_decode_sampler :
    decode (0b101#3 ++ 0b00000#5) Payload.zero = some .smpIdle
    ∧ decode (0b101#3 ++ 0b01000#5) Payload.zero = some .smpIsr
    ∧ decode (0b101#3 ++ 0b01001#5) Payload.zero = some .smpStart := by decide

theorem test_decode_event :
    decode (0b110#3 ++ 0b00000#5) Payload.zero = some .evReset
    ∧ decode (0b110#3 ++ 0b00001#5) { Payload.zero with ch := 3#4, res := 200#8 } = some (.evAdcDone 3#4 200#8)
    ∧ decode (0b110#3 ++ 0b00010#5) { Payload.zero with k := 1#1, pin := .dec, level := true }
        = some (.evPin 1#1 .dec true)
    ∧ decode (0b110#3 ++ 0b00011#5) { Payload.zero with node := .r 1#1 } = some (.evTick (.r 1#1))
    ∧ decode (0b110#3 ++ 0b00100#5) Payload.zero = some (.evDeliver none)
    ∧ decode (0b110#3 ++ 0b00100#5) { Payload.zero with delay := some .poll } = some (.evDeliver (some .poll)) := by decide

/-- Reserved words next to the assigned ones, and unit 0b111 (R90). -/
theorem test_decode_reserved :
    [0x04#8, 0x07#8, 0x0A#8, 0x23#8, 0x2B#8, 0x42#8, 0x4A#8, 0x4E#8, 0x51#8, 0x6F#8, 0x7F#8, 0x82#8, 0x8B#8, 0x92#8,
      0x99#8, 0xA1#8, 0xAA#8, 0xC5#8, 0xE0#8, 0xFF#8].all (fun w => decode w Payload.zero == none) = true := by decide

/-- A word of the opcode table has 8 bits (R80). -/
theorem test_table_word :
    decodeTableWord 8 0x6E = some .pollSkip ∧ decodeTableWord 8 0x16E = none ∧ decodeTableWord 16 0x6E = none := by
  decide

-- FSEQ

/-- V1 -/
theorem test_bufw_starts_a_frame :
    ran (fun t => (t.c.srC, t.c.bitcntC, t.c.busy, t.c.rdy, t.c.fsState, t.c.unselC))
      (exec (.fsBufw 0xC8#8) (one.mapC fun c => { c with rdy := true, unselC := true }))
      = some (0xC8#8, 8#4, true, false, FS_DRIVE, false) := by decide

/-- V2 -/
theorem test_bufw_collides :
    ran (fun t => (t.c.faultC, t.c.srC, t.c.busy))
      (exec (.fsBufw 0x33#8) (one.mapC fun c => { c with busy := true, srC := 0x90#8, fsState := FS_DRIVE }))
      = some (0x01#8, 0x90#8, true) := by decide

/-- V3 -/
theorem test_bufr_keeps_the_byte :
    ran (fun t => (t.result, t.c.rdy)) (runOps [.fsBufr, .fsBufr] (one.mapC fun c => { c with rxbufC := 8#8, rdy := true }))
      = some (8#10, false) := by decide

/-- V4, first edge, and the trailing half of the bit. -/
theorem test_drive_exchanges_a_bit :
    ran (fun t => (t.c.srC, t.r0.srR, t.c.bitcntC, t.c.fsState))
      (runOps [.fsDrive, .fsSample]
        ((sel 0#1 (inFs FS_DRIVE one)).mapC (fun c => { c with srC := 0xA5#8, bitcntC := 8#4 }) |>.mapR 0#1
          (fun r => { r with srR := 0x3C#8 })))
      = some (0x4A#8, 0x79#8, 7#4, FS_DRIVE) := by decide

/-- V5 -/
theorem test_frame_exchanges_bytes :
    ran (fun t => (t.c.rxbufC, t.c.rdy, t.c.busy, t.r0.rxbufR, t.r0.rxf, t.r0.irqfRx))
      (runOps (.fsBufw 0xC8#8 :: frameOps) ((sel 0#1 one).mapR 0#1 fun r => { r with srR := 0x08#8 }))
      = some (0x08#8, true, false, 0xC8#8, true, true) := by decide

/-- V9: both lines low, which no step reaches. -/
theorem test_contention :
    (sampleEdge (sel 0#1 (sel 1#1 two))).c.faultC = 0x02#8
    ∧ (sampleEdge (sel 0#1 (sel 1#1 two))).r0.bitcntR = 1#4
    ∧ (sampleEdge (sel 0#1 (sel 1#1 two))).r1.bitcntR = 1#4 := by decide

/-- V8: an edge with no slot selected. -/
theorem test_unselected_edge : (sampleEdge two).c.unselC = true ∧ (sampleEdge two).r0 = two.r0 := by decide

/-- V10, V11: the levels of `sck` in bus mode 0 and bus mode 3. -/
theorem test_sck_levels :
    [false, true].map (fun m =>
        let s := sel 0#1 (inFs FS_DRIVE (cfgd { Config.oneResponder with cpol := m, cpha := m } one))
        (ran (·.c.sck) (exec .fsIdle (inFs FS_IDLE s)), ran (·.c.sck) (exec .fsDrive s),
          ran (·.c.sck) (runOps [.fsDrive, .fsSample] s)))
      = [(some false, some false, some true), (some true, some false, some true)] := by decide

/-- V8 at `FS.COMPLETE` where a stall is not allowed: the byte is latched. -/
theorem test_complete_without_stall :
    ran (fun t => (t.c.rxbufC, t.c.rdy, t.c.busy, t.c.fsState, t.c.stalledC))
      (exec .fsComplete ((inFs FS_COMPLETE (cfgd { Config.oneResponder with stallOnUnselected := false } one)).mapC
        fun c => { c with srC := 0x55#8, unselC := true, busy := true }))
      = some (0x55#8, true, false, FS_IDLE, false) := by decide

/-- V6: `HALF_BIT_TICKS` = 1, ticks 16 and 17 after the write. -/
theorem test_frame_ticks :
    let s : State := sel 0#1 (State.resetWith { Config.oneResponder with time := .tickAccurate, halfBitTicks := 1 })
    (fseqTicks 16 (fsBufw 0xC8#8 s)).c.fsState = FS_COMPLETE ∧ (fseqTicks 16 (fsBufw 0xC8#8 s)).c.rdy = false
    ∧ (fseqTicks 17 (fsBufw 0xC8#8 s)).c.fsState = FS_IDLE ∧ (fseqTicks 17 (fsBufw 0xC8#8 s)).c.rdy = true := by
  decide

-- RSHIFT

/-- V12 -/
theorem test_shift_counts :
    ran (fun t => (t.r0.srR, t.r0.bitcntR)) (exec (.rsShift 0#1 true) ((sel 0#1 one).mapR 0#1 fun r => { r with srR := 8#8 }))
      = some (0x11#8, 1#4) := by decide

/-- V13 -/
theorem test_eighth_shift_completes :
    ran (fun t => (t.r0.srR, t.r0.bitcntR, t.r0.rxbufR, t.r0.rxf, t.r0.irqfRx))
      (exec (.rsShift 0#1 false) ((sel 0#1 one).mapR 0#1 fun r => { r with srR := 0x64#8, bitcntR := 7#4 }))
      = some (0xC8#8, 0#4, 0xC8#8, true, true) := by decide

/-- V14 -/
theorem test_complete_overflows :
    ran (fun t => (t.r0.faultR, t.r0.rxbufR, t.r0.irqfRx))
      (exec (.rsComplete 0#1) (one.mapR 0#1 fun r => { r with srR := 0xFF#8, rxf := true, rxbufR := 0xC8#8 }))
      = some (0x02#8, 0xC8#8, true) := by decide

/-- V15 -/
theorem test_responder_bufr :
    ran (fun t => (t.result, t.r0.rxf)) (exec (.rsBufr 0#1) (one.mapR 0#1 fun r => { r with rxbufR := 0xFF#8, rxf := true }))
      = some (0xFF#10, false) := by decide

/-- V16, V17 -/
theorem test_responder_bufw :
    ran (fun t => (t.r0.srR, t.r0.faultR)) (exec (.rsBufw 0#1 8#8) one) = some (8#8, 0#8)
    ∧ ran (fun t => (t.r0.srR, t.r0.faultR))
        (exec (.rsBufw 0#1 5#8) (one.mapR 0#1 fun r => { r with bitcntR := 3#4, srR := 0x47#8 })) = some (0x47#8, 0x01#8) := by
  decide

/-- V18, V19 -/
theorem test_irqclr :
    [0b10#8, 0b01#8].map (fun m => ran (fun t => (t.r0.irqfRx, t.r0.edgeF))
      (exec (.rsIrqclr 0#1 m) (one.mapR 0#1 fun r => { r with irqfRx := true, edgeF := true })))
      = [some (false, true), some (true, false)] := by decide

/-- V20, V21 -/
theorem test_deselect_edge :
    [3#4, 0#4].map (fun n => ran (fun t => (t.r0.faultR, t.r0.bitcntR, t.r0.csSeen, t.r0.srR))
      (exec (.rsCsedge 0#1) (one.mapR 0#1 fun r => { r with csSeen := false, bitcntR := n, srR := 0x47#8 })))
      = [some (0x08#8, 0#4, true, 0x47#8), some (0x00#8, 0#4, true, 0x47#8)] := by decide

/-- V22 -/
theorem test_select_edge :
    ran (fun t => t.r0) (exec (.rsCsedge 0#1) (sel 0#1 one)) = some { one.r0 with csSeen := false } := by decide

-- CSMUX

/-- V25, V27 -/
theorem test_assert :
    ran (fun t => (t.c.csN, t.c.csState, t.c.faultC)) (exec (.csAssert 1#1) two) = some (0b01#2, CS_STABLE, 0#8)
    ∧ ran id (exec (.csAssert 0#1) (sel 0#1 two)) = some (sel 0#1 two) := by decide

/-- V26, V33 -/
theorem test_assert_refused_or_waiting :
    ran (fun t => (t.c.csN, t.c.faultC)) (exec (.csAssert 1#1) (sel 0#1 two)) = some (0b10#2, 0x08#8)
    ∧ ran (·.c.csN) (exec (.csAssert 0#1) (inCs CS_SETTLING two)) = some 0b11#2 := by decide

/-- V28, V29 -/
theorem test_deassert :
    ran (fun t => (t.c.csN, t.c.csState, t.c.settleCnt)) (exec (.csDeassert 0#1) (sel 0#1 two))
      = some (0b11#2, CS_SETTLING, 10000#32)
    ∧ ran id (exec (.csDeassert 1#1) (sel 0#1 two)) = some (sel 0#1 two) := by decide

/-- V32 -/
theorem test_deassert_in_frame :
    ran (fun t => (t.c.faultC, t.c.csN, t.c.csState)) (exec (.csDeassert 0#1) (sending (sel 0#1 one)))
      = some (0x10#8, 0b11#2, CS_SETTLING) := by decide

/-- V30 -/
theorem test_settling :
    let s : State := (inCs CS_SETTLING ticking).mapC fun c => { c with settleCnt := 3#32 }
    [[.csSettling], [.csSettling, .csSettling], [.csSettling, .csSettling, .csSettling]].map
        (fun is => ran (fun t => (t.c.settleCnt, t.c.csState)) (runOps is s))
      = [some (2#32, CS_SETTLING), some (1#32, CS_SETTLING), some (0#32, CS_STABLE)] := by decide

/-- R135: ones above the lines. -/
theorem test_cs_read :
    ran (fun t => (t.result, t.resultStat)) (exec .csRead (inCs CS_SETTLING (sel 0#1 one))) = some (0xFE#10, 1#8)
    ∧ ran (fun t => (t.result, t.resultStat)) (exec .csRead (sel 1#1 two)) = some (0xFD#10, 0#8) := by decide

/-- R131 -/
theorem test_stable : ran id (exec .csStable two) = some two := by decide

-- POLL

/-- V42, first and last tick; R265. -/
theorem test_guard :
    ran (fun t => (t.c.guardCnt, t.c.pState)) (exec .pollGuard ticking) = some (1#32, P_GUARD)
    ∧ ran (·.c.pState) (exec .pollGuard (ticking.mapC fun c => { c with guardCnt := 0#32 })) = some P_SAMPLE := by
  decide

/-- V37, V65 -/
theorem test_sample :
    ran (fun t => (t.c.adcStart, t.c.pState)) (exec .pollSample ((inP P_SAMPLE two).mapC fun c => { c with adcBusy := true }))
      = some (false, P_EXCL)
    ∧ ran (fun t => (t.c.adcStart, t.c.adcBusy)) (exec .pollSample (inP P_SAMPLE two)) = some (true, true) := by decide

/-- V38 -/
theorem test_excl :
    ran (fun t => (t.c.csN, t.c.pState)) (exec .pollExcl ((sel 0#1 (inP P_EXCL two)).mapC fun c => { c with slot := 1#1 }))
      = some (0b11#2, P_EXCL)
    ∧ ran (·.c.pState) (exec .pollExcl ((inP P_EXCL two).mapC fun c => { c with slot := 1#1 })) = some P_SELECT := by
  decide

/-- R154, R159 -/
theorem test_select_reselect :
    ran (fun t => (t.c.csN, t.c.pState)) (exec .pollSelect (inP P_SELECT two)) = some (0b10#2, P_TXDATA)
    ∧ ran (fun t => (t.c.csN, t.c.pState)) (exec .pollReselect (inP P_RESELECT two)) = some (0b10#2, P_TXSENT) := by
  decide

/-- R155, R156: slot 0 is not polled, slot 1 is (V36). -/
theorem test_txdata :
    [0#1, 1#1].map (fun k => ran (fun t => (t.c.srC, t.c.fsState, t.c.pState))
      (exec .pollTxdata ((inP P_TXDATA two).mapC fun c => { c with slot := k, sampled := 0xC8#8 })))
      = [some (0xC8#8, FS_DRIVE, P_SKIP), some (0xC8#8, FS_DRIVE, P_WAITDATA)] := by decide

/-- R160 -/
theorem test_txsent :
    ran (fun t => (t.c.srC, t.c.busy, t.c.pState)) (exec .pollTxsent (inP P_TXSENT two))
      = some (0xFF#8, true, P_WAITREPLY) := by decide

/-- R156 -/
theorem test_data_waits :
    [(.pollWaitdata, P_WAITDATA), (.pollSkip, P_SKIP)].map (fun ic => ran (fun t => (t.c.rdy, t.c.pState))
      (exec ic.1 ((inP ic.2 two).mapC fun c => { c with rdy := true })))
      = [some (false, P_DESELECT), some (false, P_NEXT)] := by decide

/-- R157, R158 -/
theorem test_deselect_settle :
    ran (fun t => (t.c.csN, t.c.csState, t.c.pState)) (exec .pollDeselect (sel 0#1 (inP P_DESELECT two)))
      = some (0b11#2, CS_SETTLING, P_SETTLE)
    ∧ ran (·.c.pState) (exec .pollSettle (inCs CS_SETTLING (inP P_SETTLE two))) = some P_SETTLE
    ∧ ran (·.c.pState) (exec .pollSettle (inP P_SETTLE two)) = some P_RESELECT := by decide

/-- P1, R95, R158: `67 C4 68` goes from `P_SETTLE` to `P_TXSENT`, the step of `67` taken once `C4` has ended the delay. -/
theorem test_settle_word_waits :
    let s : State := { inCs CS_SETTLING (inP P_SETTLE two) with script :=
      [.op 0x67#8 Payload.zero, .op 0xC4#8 { Payload.zero with delay := some .csmux }, .op 0x68#8 Payload.zero,
        .invoked 0x48#8] }
    [2, 3, 4, 5].map (fun n => ran (fun t => (t.c.csN, t.c.pState, t.script.length)) (steps n s))
      = [some (0b11#2, P_SETTLE, 2), some (0b11#2, P_RESELECT, 2), some (0b10#2, P_TXSENT, 1),
        some (0b10#2, P_TXSENT, 0)] := by decide

/-- R94, R95: a `RUN` line is done where its FSM is in its state. -/
theorem test_run_line_ends :
    ran (fun t => (t.c.pState, t.script)) (step (pend (.run .poll P_SELECT) (inP P_SELECT two))) = some (P_SELECT, [])
    ∧ why (step (pend (.run (.resp 1#1) R_SERVICE) one)) = some .absentSlot := by decide

/-- R161, R162 -/
theorem test_reply :
    ran (·.c.pState) (exec .pollWaitreply (inP P_WAITREPLY two)) = some P_WAITREPLY
    ∧ ran (fun t => (t.c.reply, t.c.rdy, t.c.pState))
        (runOps [.pollWaitreply, .pollReceive]
          ((inP P_WAITREPLY two).mapC fun c => { c with rdy := true, rxbufC := 0x77#8 })) = some (0x77#8, false, P_DISPLAY) := by
  decide

/-- V39: slot 0 is not displayed, slot 1 is. -/
theorem test_display :
    [0#1, 1#1].map (fun k => ran (fun t => (t.c.ledC, t.c.pState))
      (exec .pollDisplay ((inP P_DISPLAY two).mapC fun c => { c with slot := k, reply := 0x77#8 })))
      = [some (0#8, P_NEXT), some (0x77#8, P_NEXT)] := by decide

/-- V40 and R164 -/
theorem test_next :
    [0#1, 1#1].map (fun k => ran (fun t => (t.c.slot, t.c.guardCnt, t.c.pState))
      (exec .pollNext ((inP P_NEXT two).mapC fun c => { c with slot := k, guardCnt := 0#32 })))
      = [some (1#1, 0#32, P_EXCL), some (0#1, 2#32, P_GUARD)] := by decide

/-- V41 -/
theorem test_poll_illegal :
    ran (fun t => (t.c.faultC, t.c.pState)) (exec .pollGuard (inP 0x0F#5 two)) = some (0x04#8, 0x0F#5) := by decide

/-- R90: POLL's read of `BUF_C` acts beside a stuck FSEQ, the model's reading (notes/assumptions/9.md). -/
theorem test_read_beside_stuck_fseq :
    ran (fun t => (t.c.rdy, t.c.pState, t.c.fsState))
      (exec .pollWaitdata ((inFs 4#5 (inP P_WAITDATA two)).mapC fun c => { c with rdy := true }))
      = some (false, P_DESELECT, 4#5) := by decide

-- RESP

/-- V43, V44 -/
theorem test_pindet :
    [0b11#2, 0b10#2].map (fun en => ran (fun t => (t.r0.edgeF, t.r0.pinLast))
      (runOps [.evPin 0#1 .inc false, .respPindet 0#1] (one.mapR 0#1 fun r => { r with edgeEn := en })))
      = [some (true, 0b10#2), some (false, 0b10#2)] := by decide

/-- V46, V47, V48, V49, V50: counter, `EDGE_EN`, `inc_n`, `dec_n`, and the counter after. -/
theorem test_h_edge :
    [(255#8, 3#2, false, true), (0#8, 3#2, true, false), (7#8, 3#2, false, false), (7#8, 3#2, true, true),
      (7#8, 2#2, false, true)].map (fun x => ran (fun t => (t.r0.counter, t.r0.edgeF))
        (exec (.respHEdge 0#1) (one.mapR 0#1 fun r =>
          { r with counter := x.1, edgeEn := x.2.1, incN := x.2.2.1, decN := x.2.2.2, edgeF := true })))
      = [some (0#8, false), some (255#8, false), some (8#8, false), some (7#8, false), some (7#8, false)] := by decide

/-- V51 -/
theorem test_dispatch_and_service :
    ran (fun t => (t.r0.ledR, t.r0.srR, t.r0.rxf, t.r0.irqfRx, t.r0.rState))
      (runOps [.respIdle 0#1, .respService 0#1]
        (one.mapR 0#1 fun r => { r with irqfRx := true, rxbufR := 0xC8#8, rxf := true, counter := 8#8 }))
      = some (0xC8#8, 8#8, false, false, R_IDLE) := by decide

/-- V52 -/
theorem test_service_edge_first :
    ran (fun t => (t.r0.counter, t.r0.ledR, t.r0.srR, t.r0.irqfRx, t.r0.edgeF))
      (exec (.respService 0#1) (inR 0#1 R_SERVICE (one.mapR 0#1 fun r =>
        { r with irqfRx := true, edgeF := true, incN := false, rxbufR := 0xC8#8, counter := 7#8 })))
      = some (8#8, 0xC8#8, 8#8, false, false) := by decide

/-- R185: the handler as a word of its own, and the staging write refused part-way through a frame. -/
theorem test_h_rx_display :
    ran (fun t => (t.r0.ledR, t.r0.srR, t.r0.faultR, t.r0.irqfRx))
      (exec (.respHRxDisplay 0#1) (one.mapR 0#1 fun r =>
        { r with irqfRx := true, rxbufR := 0xC8#8, srR := 0x11#8, bitcntR := 1#4, counter := 8#8 }))
      = some (0xC8#8, 0x11#8, 0x01#8, false) := by decide

/-- V53 -/
theorem test_h_rx_pwm :
    ran (fun t => (t.r0.dutyH, t.r0.dutyL, t.r0.srR, t.r0.rxf, t.r0.irqfRx))
      (exec (.respHRxPwm 0#1) (two.mapR 0#1 fun r =>
        { r with irqfRx := true, rxf := true, rxbufR := 0x80#8, srR := 0x11#8 }))
      = some (23#8, 2#2, 0x11#8, false, false) := by decide

/-- V54 -/
theorem test_pwm_has_no_pins :
    ran (fun t => (t.r0.edgeF, t.r0.rState)) (runOps [.evPin 0#1 .inc false, .respPindet 0#1, .respIdle 0#1] two)
      = some (false, R_IDLE) := by decide

/-- V55: any step of RESP, in either variant. -/
theorem test_resp_illegal :
    [.respIdle 0#1, .respService 0#1, .respHEdge 0#1, .respHRxDisplay 0#1, .respPindet 0#1, .respLinmap 0#1 9#8].all (fun i =>
      ran id (exec i (inR 0#1 5#5 (one.mapR 0#1 fun r => { r with incN := false, irqfRx := true })))
        == some ((inR 0#1 5#5 (one.mapR 0#1 fun r => { r with incN := false, irqfRx := true, faultR := 0x04#8 })))) = true
    ∧ [.respHRxPwm 0#1, .respPwmsplit 0#1 9#10].all (fun i =>
      ran id (exec i (inR 0#1 5#5 two)) == some (inR 0#1 5#5 (two.mapR 0#1 fun r => { r with faultR := 0x04#8 }))) = true := by
  decide

/-- V56, V57, V58 and the ends of the range. -/
theorem test_linmap :
    [0#8, 2#8, 3#8, 128#8, 253#8, 255#8].map (fun x => ran (·.result) (exec (.respLinmap 0#1 x) two))
      = [some 62#10, some 62#10, some 63#10, some 94#10, some 125#10, some 125#10] := by decide

/-- V59 -/
theorem test_linmap_reversed :
    [0#8, 1#8, 128#8, 255#8].map (linmap Config.twoResponders { Config.pwmSlot with outMin := 125, outMax := 62 })
      = [125#10, 125#10, 93#10, 62#10] := by decide

/-- V60, V61, V63, V64 -/
theorem test_pwmsplit :
    [62#10, 63#10, 125#10, 1023#10].map (fun d => ran (fun t => (t.r0.dutyH, t.r0.dutyL)) (exec (.respPwmsplit 0#1 d) two))
      = [some (15#8, 2#2), some (15#8, 3#2), some (31#8, 1#2), some (255#8, 3#2)] := by decide

-- SAMPLER and the events

/-- V66 -/
theorem test_sampler_copies :
    ran (fun t => (t.c.adres, t.c.adcBusy, t.c.sampled, t.c.adif))
      (runOps [.smpStart, .evAdcDone 0#4 200#8, .smpIdle] two) = some (200#8, false, 200#8, false) := by decide

/-- V67 -/
theorem test_sampler_ignores_another_channel :
    ran (fun t => (t.c.sampled, t.c.adif, t.c.faultC))
      (exec .smpIsr ((cfgd { Config.twoResponders with expectedCh := 1#4 } two).mapC fun c =>
        { c with sampled := 17#8, adres := 200#8, adif := true })) = some (17#8, false, 0#8) := by decide

/-- R90: a SAMPLER with an unassigned code copies nothing and raises ILLEGAL_STATE. -/
theorem test_sampler_illegal :
    [.smpIdle, .smpIsr].map (fun i => ran (fun t => (t.c.sampled, t.c.adif, t.c.faultC))
      (exec i (two.mapC fun c => { c with sState := 1#5, adres := 200#8, adif := true })))
      = [some (0#8, true, 0x04#8), some (0#8, true, 0x04#8)] := by decide

/-- V68 -/
theorem test_adc_done_needs_a_request : ran id (exec (.evAdcDone 0#4 200#8) two) = some two := by decide

/-- V31, R244 -/
theorem test_deliver :
    ran (fun t => (t.c.settleCnt, t.c.csState))
      (exec (.evDeliver (some .csmux)) ((inCs CS_SETTLING two).mapC fun c => { c with settleCnt := 5#32 }))
      = some (0#32, CS_STABLE)
    ∧ ran (fun t => (t.c.guardCnt, t.c.pState)) (exec (.evDeliver (some .poll)) two) = some (0#32, P_SAMPLE) := by decide

/-- R89: the event without an operand ends the delay that runs, whichever it is. -/
theorem test_deliver_without_operand :
    ran (·.c.pState) (exec (.evDeliver none) two) = some P_SAMPLE
    ∧ ran (·.c.csState) (exec (.evDeliver none) (inCs CS_SETTLING (inP P_SETTLE two))) = some CS_STABLE := by decide

/-- R243: in one tick CSMUX ends the settle delay and POLL sees that it has. -/
theorem test_tick_order :
    ran (fun t => (t.c.csState, t.c.pState))
      (exec (.evTick .c) ((inCs CS_SETTLING (inP P_SETTLE ticking)).mapC fun c => { c with settleCnt := 1#32 }))
      = some (CS_STABLE, P_RESELECT) := by decide

/-- R265: no ticks where time is abstract. -/
theorem test_no_tick : ran id (exec (.evTick (.r 1#1)) two) = some two := by decide

/-- R242 -/
theorem test_pin :
    ran (fun t => (t.r1.incN, t.r1.decN, t.r0.decN)) (exec (.evPin 1#1 .dec false) two) = some (true, false, true) := by
  decide

/-- V70 -/
theorem test_reset :
    let s : State := (sending (sel 0#1 (inP 0x0F#5 one))).mapR 0#1 fun r => { r with counter := 9#8, csSeen := false }
    ran (fun t => (t.c.pState, t.c.slot, t.c.fsState, t.c.csN, t.c.busy)) (exec .evReset s)
      = some (P_GUARD, 0#1, FS_IDLE, 0b11#2, false)
    ∧ ran (fun t => (t.r0.counter, t.r0.csSeen, t.r0.pinLast, t.r0.faultR)) (exec .evReset s)
      = some (5#8, true, 0b11#2, 0#8) := by decide

/-- R90, R62, R253: what a step refuses. -/
theorem test_refusals :
    why (step (two.placeWord 0x6F)) = some .reservedWord
    ∧ why (step (pend (.invoked 0xE0#8) two)) = some .reservedWord
    ∧ why (step (pend (.regRead (.r 1#1) 0x00#8) one)) = some .absentSlot
    ∧ why (step (one.placeWord 0x49)) = some .absentSlot
    ∧ why (step (pend (.regWrite .c 0x00#8 1#8) two)) = some .externalRegWrite
    ∧ why (step (cfgd { Config.twoResponders with nResp := 3 } two)) = some .invalidConfig := by decide

/-- R262: the premise is broken by an unserviced data frame at the reply frame's first edge, and by nothing at an edge of a
data frame. -/
theorem test_service_before_reply :
    let s : Code → State := fun code => ((sel 0#1 (inP code (inFs FS_DRIVE one))).mapC fun c => { c with bitcntC := 8#4 }).mapR
      0#1 fun r => { r with irqfRx := true }
    takesSampleEdge .fsDrive (s P_WAITREPLY) = true ∧ ¬serviceBeforeReply 0#1 (s P_WAITREPLY)
    ∧ takesSampleEdge .fsDrive (s P_WAITDATA) = true ∧ serviceBeforeReply 0#1 (s P_WAITDATA) := by
  unfold serviceBeforeReply; decide

/-- R29, R33: `CTRL_C` and `CTRL_R` at reset. -/
theorem test_ctrl_values : two.regC 0x02#8 = 0x03#8 ∧ two.regR 1#1 0x02#8 = 0x11#8 := by decide

-- For every statement with hypotheses, states and operands that meet them, clause by clause

/-- A ticking state with the given `HALF_BIT_TICKS`. -/
abbrev halfBit (n : Nat) : State := State.resetWith { Config.twoResponders with time := .tickAccurate, halfBitTicks := n }

theorem witness_ListedWordsAreExactlyThoseThatDecode :
    decode 0xC4#8 Payload.zero = some (.evDeliver none)
    ∧ two.cfg.ok = true ∧ (pend (.op 0xC5#8 Payload.zero) two).noneDue = true ∧ (pend (.op 0xC5#8 Payload.zero) two).script = [.op 0xC5#8 Payload.zero]
    ∧ decode 0xC5#8 Payload.zero = none ∧ decode 0x6F#8 Payload.zero = none ∧ decode 0xFF#8 Payload.zero = none := by
  decide

theorem witness_SelectWordsCarryTheirSlotInBitZero : one.cfg.nResp ≤ (1#1 : Slot).toNat := by decide

theorem witness_StepRunsTheDecodedOperation :
    let s : State := { inP P_SETTLE two with owed := [.smpIdle, .pollSettle, .respIdle 0#1] }
    (two.cfg.ok = true ∧ (pend (.op 0x00#8 Payload.zero) two).noneDue = true
      ∧ (pend (.op 0x00#8 Payload.zero) two).script = [.op 0x00#8 Payload.zero]
      ∧ decode 0x00#8 Payload.zero = some .fsIdle ∧ (pend (.op 0x00#8 Payload.zero) two).waits .fsIdle = false)
    ∧ (decode 0x60#8 Payload.zero = some .pollGuard ∧ two.waits .pollGuard = true
      ∧ Instr.pollGuard.wellFormed two.cfg = true ∧ (inCs CS_SETTLING s).noneDue = true)
    ∧ (s.owed = [.smpIdle] ++ .pollSettle :: [.respIdle 0#1] ∧ (∀ j ∈ [Instr.smpIdle], s.waits j = true)
      ∧ s.waits .pollSettle = false)
    ∧ ((pend (.run .poll P_GUARD) two).noneDue = true ∧ two.hasFsm .poll = true ∧ two.fsmCode .poll = P_GUARD
      ∧ two.hasFsm (.resp 1#1) = true ∧ two.fsmCode (.resp 1#1) ≠ R_SERVICE)
    ∧ (decode 0x20#8 Payload.zero = some (.rsShift 0#1 false)
      ∧ (Instr.rsShift 0#1 false).wellFormed two.cfg = true) := by decide

theorem witness_ConfigurationChecksDecideWhetherAStepRuns :
    ¬((cfgd { Config.twoResponders with nResp := 3 } two).cfg.nResp = 1
        ∨ (cfgd { Config.twoResponders with nResp := 3 } two).cfg.nResp = 2)
    ∧ ¬(1 ≤ (halfBit 0).cfg.halfBitTicks)
    ∧ ¬(2 * (halfBit 5001).cfg.halfBitTicks ≤ (halfBit 5001).cfg.settleTicks)
    ∧ (two.cfg.valid = true ∧ two.cfg.time ≠ .tickAccurate)
    ∧ (cfgd { Config.twoResponders with halfBitTicks := 65537, settleTicks := 131074 } two).cfg.valid = true
    ∧ ((halfBit 5000).cfg.valid = true ∧ (halfBit 5000).cfg.fits = true) := by decide

theorem witness_WellFormedOperationsAnswerANextState :
    (Instr.csAssert 0#1).wellFormed one.cfg = true ∧ (Instr.csAssert 1#1).wellFormed two.cfg = true
    ∧ (Instr.csAssert 1#1).wellFormed one.cfg = false := by decide

theorem witness_ObservationReadsAndRefusesWrites :
    two.cfg.ok = true ∧ two.noneDue = true ∧ two.cfg.hasSlot 0#1 = true ∧ two.cfg.hasSlot 1#1 = true
    ∧ (one.cfg.ok = true ∧ one.noneDue = true ∧ one.cfg.hasSlot 1#1 = false)
    ∧ (pend (.regRead .c 0x00#8) two).script = [.regRead .c 0x00#8]
    ∧ (pend (.regRead (.r 1#1) 0x00#8) two).script = [.regRead (.r 1#1) 0x00#8]
    ∧ (0x01#8 ≠ 0x00#8 ∧ (pend (.regRead .c 0x01#8) two).script = [.regRead .c 0x01#8])
    ∧ (0xFF#8 ≠ 0x00#8 ∧ (pend (.regRead (.r 1#1) 0xFF#8) two).script = [.regRead (.r 1#1) 0xFF#8])
    ∧ (0x0C ≤ (0x0C#8).toNat ∧ (0x0C#8).toNat ≤ 0x0E) ∧ (0x0C ≤ (0x0E#8).toNat ∧ (0x0E#8).toNat ≤ 0x0E)
    ∧ 0x10 ≤ (0x10#8).toNat ∧ 0x10 ≤ (0xFF#8).toNat
    ∧ (pend (.regWrite .c 0x07#8 1#8) two).script = [.regWrite .c 0x07#8 1#8] := by decide

theorem witness_StatusRegistersShowTheFlags :
    one.cfg.nResp = 1 ∧ two.cfg.nResp = 2 ∧ two.cfg.hasSlot 1#1 = true
    ∧ [(OpUnit.poll, 0x08#8), (.fseq, 0x00#8), (.sampler, 0x07#8), (.poll, 0x05#8), (.csmux, 0x03#8)].all (fun ui =>
        !(ui.1 == .poll && (ui.2 == 0x00#8 || ui.2 == 0x07#8)) && !(ui.1 == .sampler && ui.2 == 0x05#8)) = true
    ∧ [(OpUnit.resp, 0x05#8), (.rshift, 0x00#8), (.poll, 0x04#8), (.resp, 0x0A#8)].all (fun ui =>
        !(ui.1 == .resp && [0x00#8, 0x03#8, 0x04#8, 0x07#8, 0x08#8, 0x09#8].contains ui.2)) = true := by decide

/-- R10, R30, R34: the units that the maps name write, the others do not. -/
theorem test_reg_write :
    ((two.regWriteC .sampler 0x05#8 9#8).c.sampled, (two.regWriteC .poll 0x05#8 9#8).c.sampled) = (9#8, 0#8)
    ∧ ((two.regWriteR 1#1 .resp 0x04#8 9#8).r1.counter, (two.regWriteR 1#1 .rshift 0x04#8 9#8).r1.counter) = (9#8, 5#8) := by
  decide

theorem witness_IdleStatesHaveNoStepOfTheirOwn :
    two.c.stalledC = false ∧ two.c.fsState = FS_IDLE ∧ two.c.csState = CS_STABLE := by decide

theorem witness_DriveHalfBitEndsWithTheSampleEdge :
    let tick : State := (inFs FS_DRIVE ticking).mapC fun c => { c with divcntC := 1#16 }
    let last : State := inFs FS_DRIVE ticking
    (tick.c.stalledC = false ∧ tick.c.fsState = FS_DRIVE ∧ tick.cfg.time = .tickAccurate ∧ tick.c.divcntC ≠ 0#16)
    ∧ (last.c.stalledC = false ∧ last.c.fsState = FS_DRIVE ∧ last.c.divcntC = 0#16)
    ∧ ((inFs FS_DRIVE two).c.fsState = FS_DRIVE ∧ two.cfg.time = .timeAbstract) := by decide

theorem witness_SampleEdgeShiftsAndTheBitIsCounted :
    ((sel 0#1 two).selected 0#1 = true ∧ (sel 0#1 two).selected 1#1 = false)
    ∧ ((sel 1#1 two).selected 1#1 = true ∧ (sel 1#1 two).selected 0#1 = false)
    ∧ ((sel 0#1 (sel 1#1 two)).selected 0#1 = true ∧ (sel 0#1 (sel 1#1 two)).selected 1#1 = true)
    ∧ (two.selected 0#1 = false ∧ two.selected 1#1 = false)
    ∧ ((inFs FS_SAMPLE ticking).c.stalledC = false ∧ (inFs FS_SAMPLE ticking).c.fsState = FS_SAMPLE)
    ∧ ((ticking.mapC fun c => { c with divcntC := 1#16 }).c.divcntC ≠ 0#16 ∧ ticking.cfg.time = .tickAccurate)
    ∧ ((two.mapC fun c => { c with bitcntC := 1#4 }).c.bitcntC = 1#4 ∧ two.cfg.time = .timeAbstract)
    ∧ ((ticking.mapC fun c => { c with bitcntC := 2#4 }).c.bitcntC ≠ 1#4 ∧ ticking.c.divcntC = 0#16) := by decide

theorem witness_CompletionLatchesTheByteOrStalls :
    let s : State := inFs FS_COMPLETE two
    let u : State := s.mapC fun c => { c with unselC := true }
    (s.c.stalledC = false ∧ s.c.fsState = FS_COMPLETE ∧ ¬(s.c.unselC = true ∧ s.cfg.stallOnUnselected = true))
    ∧ (u.c.stalledC = false ∧ u.c.fsState = FS_COMPLETE ∧ u.c.unselC = true ∧ u.cfg.stallOnUnselected = true) := by
  decide

theorem witness_ControllerBufferWriteAndRead :
    (fsAssigned (inFs FS_COMPLETE (sending two)).c.fsState = true ∧ (inFs FS_COMPLETE (sending two)).c.busy = true)
    ∧ (fsAssigned two.c.fsState = true ∧ two.c.busy = false)
    ∧ fsAssigned (inFs 0x04#5 two).c.fsState = false ∧ fsAssigned (inFs 0x1F#5 two).c.fsState = false := by decide

theorem witness_FrameExchangesTheTwoBytes :
    let s : State := (sel 1#1 (inFs FS_DRIVE two)).mapC fun c => { c with bitcntC := 8#4 }
    s.cfg.time = .timeAbstract ∧ s.c.stalledC = false ∧ s.c.unselC = false ∧ s.c.fsState = FS_DRIVE
    ∧ s.c.bitcntC = 8#4 ∧ s.selected 1#1 = true ∧ s.selected (~~~1#1) = false ∧ (s.rnode 1#1).bitcntR = 0#4
    ∧ (s.rnode 1#1).rxf = false
    ∧ ((s.mapR 1#1 fun r => { r with rxf := true }).rnode 1#1).rxf = true
    ∧ (s.mapR 1#1 fun r => { r with rxf := true }).selected 1#1 = true := by decide

theorem witness_FrameLastsSixteenHalfBitsAndOneTick :
    [1, 65536].all (fun n =>
      let s : State := (sel 0#1 (inFs FS_DRIVE (halfBit n))).mapC fun c =>
        { c with bitcntC := 8#4, divcntC := BitVec.ofNat 16 (n - 1) }
      s.cfg.time == .tickAccurate && decide (1 ≤ s.cfg.halfBitTicks) && decide (s.cfg.halfBitTicks ≤ 65536)
        && !s.c.stalledC && !s.c.unselC && s.c.fsState == FS_DRIVE && s.c.bitcntC == 8#4
        && s.c.divcntC == BitVec.ofNat 16 (s.cfg.halfBitTicks - 1) && !s.c.rdy && s.selected 0#1
        && !s.selected (~~~0#1)) = true := by decide

theorem witness_SelectedResponderShiftsAndCompletes :
    two.cfg.hasSlot 1#1 = true
    ∧ ((sel 1#1 two).selected 1#1 = true ∧ ((sel 1#1 two).rnode 1#1).bitcntR ≠ 7#4)
    ∧ (((sel 1#1 two).mapR 1#1 fun r => { r with bitcntR := 6#4 }).rnode 1#1).bitcntR ≠ 7#4
    ∧ (((sel 1#1 two).mapR 1#1 fun r => { r with bitcntR := 7#4 }).selected 1#1 = true
      ∧ (((sel 1#1 two).mapR 1#1 fun r => { r with bitcntR := 7#4 }).rnode 1#1).bitcntR = 7#4)
    ∧ two.selected 1#1 = false
    ∧ ((two.mapR 1#1 fun r => { r with rxf := true }).rnode 1#1).rxf = true
    ∧ (two.rnode 1#1).rxf = false := by decide

theorem witness_DeselectEdgeAbortsAPartialFrame :
    let low : State := two.mapR 1#1 fun r => { r with csSeen := false }
    let part : State := low.mapR 1#1 fun r => { r with bitcntR := 1#4 }
    (part.cfg.hasSlot 1#1 = true ∧ (part.rnode 1#1).csSeen = false ∧ csLine part.c.csN 1#1 = true
      ∧ (part.rnode 1#1).bitcntR ≠ 0#4)
    ∧ ((low.rnode 1#1).csSeen = false ∧ csLine low.c.csN 1#1 = true ∧ (low.rnode 1#1).bitcntR = 0#4)
    ∧ (((sel 1#1 two).rnode 1#1).csSeen = true ∧ csLine (sel 1#1 two).c.csN 1#1 = false)
    ∧ (two.rnode 1#1).csSeen = csLine two.c.csN 1#1
    ∧ ((sel 1#1 low).rnode 1#1).csSeen = csLine (sel 1#1 low).c.csN 1#1 := by decide

theorem witness_ResponderBufferAndFlagAccesses :
    two.cfg.hasSlot 1#1 = true ∧ (two.rnode 1#1).bitcntR = 0#4
    ∧ ((two.mapR 1#1 fun r => { r with bitcntR := 1#4 }).rnode 1#1).bitcntR ≠ 0#4 := by decide

theorem witness_SettleDelayCountsDown :
    let s : BitVec 32 → State := fun n => (inCs CS_SETTLING ticking).mapC fun c => { c with settleCnt := n }
    (s 0#32).c.csState = CS_SETTLING ∧ ticking.cfg.time = .tickAccurate
    ∧ 1 < (s 2#32).c.settleCnt.toNat ∧ (s 1#32).c.settleCnt.toNat ≤ 1 ∧ (s 0#32).c.settleCnt.toNat ≤ 1
    ∧ ((inCs CS_SETTLING two).c.csState = CS_SETTLING ∧ (inCs CS_SETTLING two).cfg.time = .timeAbstract) := by decide

-- Two runs with a settle delay

/-- The states that `moves` takes `s` through. -/
def play (moves : Nat → Instr) (s : State) : Nat → State
  | 0 => s
  | n + 1 =>
    match exec (moves n) (play moves s n) with
    | .next t => t
    | _ => play moves s n

/-- They are a run where every move is one of the machine and answers a next state. -/
theorem play_isRun {moves : Nat → Instr} {s : State}
    (hm : ∀ n, isMove s.cfg.time (moves n) = true ∧ (moves n).wellFormed s.cfg = true)
    (hx : ∀ n u, u.cfg = s.cfg → ∃ t, exec (moves n) u = .next t) : IsRun moves (play moves s) := by
  have hcfg : ∀ n, (play moves s n).cfg = s.cfg := by
    intro n
    induction n with
    | zero => rfl
    | succ n ih =>
      obtain ⟨t, ht⟩ := hx n _ ih
      rw [play, ht]
      exact (exec_items ht).2.2.trans ih
  exact ⟨fun n => by rw [hcfg n]; exact hm n, fun n => by obtain ⟨t, ht⟩ := hx n _ (hcfg n); rw [play, ht]⟩

/-- Time abstract: a deselect seen by `R_0`, the end of its delay, and the reselect. -/
def settleMoves (n : Nat) : Instr :=
  [Instr.pollDeselect, .rsCsedge 0#1, .evDeliver (some .csmux), .pollSettle, .pollReselect].getD n .fsIdle

/-- `R_0` is selected, has seen it, and is about to be deselected. -/
abbrev settleStart : State := (sel 0#1 (inP P_DESELECT two)).mapR 0#1 fun r => { r with csSeen := false }

/-- The states of that run. -/
def settleRun : Nat → State := play settleMoves settleStart

theorem settleMoves_run : IsRun settleMoves settleRun := by
  have all : ∀ p : Instr → Prop, p .pollDeselect → p (.rsCsedge 0#1) → p (.evDeliver (some .csmux)) → p .pollSettle →
      p .pollReselect → p .fsIdle → ∀ n, p (settleMoves n) := by
    intro p h0 h1 h2 h3 h4 h5 n
    match n with
    | 0 => exact h0
    | 1 => exact h1
    | 2 => exact h2
    | 3 => exact h3
    | 4 => exact h4
    | n + 5 => exact h5
  refine play_isRun (fun n => ?_) fun n => ?_
  · exact all (fun i => isMove .timeAbstract i = true ∧ i.wellFormed Config.twoResponders = true) (by decide) (by decide)
      (by decide) (by decide) (by decide) (by decide) n
  · refine all (fun i => ∀ u : State, u.cfg = Config.twoResponders → ∃ t, exec i u = .next t) ?_ ?_ ?_ ?_ ?_ ?_ n
    case refine_2 =>
      intro u hu
      refine ⟨u.mapR 0#1 (·.csedge (csLine u.c.csN 0#1)), ?_⟩
      unfold exec execRsCsedge
      exact onSlot_next_iff.mpr ⟨by rw [hu]; decide, rfl⟩
    all_goals intro u _; exact ⟨_, rfl⟩

/-- From the reselect on it stays as it is. -/
theorem settleRun_late (n : Nat) : settleRun (n + 5) = settleRun 5 := by
  have h : exec .fsIdle (settleRun 5) = .next (settleRun 5) := rfl
  induction n with
  | zero => rfl
  | succ n ih =>
    have := settleMoves_run.next (n + 5)
    rw [ih] at this
    exact Host.Outcome.next.inj (this.symm.trans h)

/-- It deselects once. -/
theorem settleRun_deselects {n : Nat} (hd : Deselects 0#1 (settleRun n) (settleRun (n + 1))) : n = 0 := by
  unfold Deselects at hd
  rcases Nat.lt_or_ge n 5 with h | h
  · exact (by decide : ∀ n, n < 5 → csLine (settleRun n).c.csN 0#1 = false →
      csLine (settleRun (n + 1)).c.csN 0#1 = true → n = 0) n h hd.1 hd.2
  · obtain ⟨d, rfl⟩ := Nat.exists_eq_add_of_le' h
    rw [show d + 5 + 1 = d + 1 + 5 by omega, settleRun_late d, settleRun_late (d + 1)] at hd
    exact absurd (hd.1.symm.trans hd.2) Bool.false_ne_true

/-- The ticks of C and of `R_0`, taking turns. -/
def turns (n : Nat) : Instr := if n % 2 = 0 then .evTick .c else .evTick (.r 0#1)

/-- The same where the machine counts ticks. -/
abbrev tickStart : State :=
  (sel 0#1 (inP P_DESELECT (State.resetWith
    { Config.twoResponders with time := .tickAccurate, halfBitTicks := 1, settleTicks := 2 }))).mapR 0#1
      fun r => { r with csSeen := false }

theorem turns_run : IsRun turns (play turns tickStart) := by
  refine play_isRun (fun n => ?_) fun n u hu => ?_ <;> unfold turns <;> split
  · decide
  · decide
  · exact ⟨_, rfl⟩
  · exact ⟨_, onSlot_next_iff.mpr ⟨by rw [hu]; rfl, rfl⟩⟩

theorem turns_equalClocks : EqualClocks 0#1 turns := by
  intro n d
  have : movesIn turns (.evTick .c) n d = (d + 1 - n % 2) / 2
      ∧ movesIn turns (.evTick (.r 0#1)) n d = (d + n % 2) / 2 := by
    induction d with
    | zero => constructor <;> simp only [movesIn] <;> omega
    | succ d ih =>
      rcases Nat.mod_two_eq_zero_or_one (n + d) with h | h <;> simp [movesIn, ih, turns, h] <;> omega
  omega

/-- A tick of `R_k` whose step would change nothing answers the same whatever is drawn. -/
theorem tickR_hold {k : Slot} {s u : State} (hc : s.counting = true)
    (hu : u = inVariant .counterDisplay k RNode.pindet (s.mapR k (·.csedge (csLine s.c.csN k))))
    (h : respStep k u = u) : evTick (.r k) s = u.drew 1 := by
  unfold evTick; rw [if_pos hc]; simp only [tickR, respTick, ← hu, h, ite_self]

/-- The states of that run up to the reselect. -/
def tickStates : Nat → State
  | 0 => tickStart
  | n + 1 =>
    let s := tickStates n
    if n % 2 = 0 then tickC s else (s.mapR 0#1 (·.csedge (csLine s.c.csN 0#1))).drew 1

theorem tickStates_play : ∀ n, n ≤ 7 → play turns tickStart n = tickStates n := by
  intro n hn
  have c : ∀ m, m % 2 = 0 → (tickStates m).counting = true → play turns tickStart m = tickStates m →
      play turns tickStart (m + 1) = tickStates (m + 1) := by
    intro m hm hc h
    simp only [play, turns, hm, if_true, h, tickStates, exec, execEvTick, evTick, hc]
  have r : ∀ m, m % 2 = 1 → (tickStates m).counting = true → (tickStates m).cfg.hasSlot 0#1 = true →
      (let s := tickStates m
       let u := s.mapR 0#1 (·.csedge (csLine s.c.csN 0#1))
       u = inVariant .counterDisplay 0#1 RNode.pindet u ∧ respStep 0#1 u = u) →
      play turns tickStart m = tickStates m → play turns tickStart (m + 1) = tickStates (m + 1) := by
    intro m hm hc hs hu h
    have : exec (.evTick (.r 0#1)) (tickStates m) = .next (tickStates (m + 1)) := by
      refine onSlot_next_iff.mpr ⟨hs, ?_⟩
      rw [tickR_hold hc hu.1 hu.2, tickStates, if_neg (by omega)]
    simp only [play, turns, hm, h, Nat.one_ne_zero, if_false, this]
  have h1 := c 0 rfl (by decide) rfl
  have h2 := r 1 rfl (by decide) (by decide) (by decide) h1
  have h3 := c 2 rfl (by decide) h2
  have h4 := r 3 rfl (by decide) (by decide) (by decide) h3
  have h5 := c 4 rfl (by decide) h4
  have h6 := r 5 rfl (by decide) (by decide) (by decide) h5
  have h7 := c 6 rfl (by decide) h6
  match n with
  | 0 => rfl
  | 1 => exact h1
  | 2 => exact h2
  | 3 => exact h3
  | 4 => exact h4
  | 5 => exact h5
  | 6 => exact h6
  | 7 => exact h7
  | n + 8 => omega

theorem witness_SettleDelayLastsItsTicks :
    (let s : State := (inCs CS_SETTLING ticking).mapC fun c => { c with settleCnt := 1#32 }
     s.cfg.time = .tickAccurate ∧ s.c.csState = CS_SETTLING ∧ 1 ≤ s.c.settleCnt.toNat ∧ 0 < s.c.settleCnt.toNat)
    ∧ (∃ run, IsRun turns run ∧ (run 0).cfg.ok = true ∧ (run 0).cfg.time = .tickAccurate ∧ EqualClocks 0#1 turns
      ∧ Deselects 0#1 (run 0) (run 1) ∧ (∀ j, 0 < j → j < 7 → csLine (run j).c.csN 0#1 = true)
      ∧ csLine (run 7).c.csN 0#1 = false ∧ ∀ j, 0 ≤ j → j < 7 → turns j ≠ .evReset)
    ∧ ∃ run, IsRun settleMoves run ∧ (run 0).cfg.ok = true ∧ (run 0).cfg.time = .timeAbstract
      ∧ DeselectEdgesSeen 0#1 settleMoves run ∧ Deselects 0#1 (run 0) (run 1)
      ∧ (∀ j, 0 < j → j < 5 → csLine (run j).c.csN 0#1 = true) ∧ csLine (run 5).c.csN 0#1 = false
      ∧ ∀ j, 0 ≤ j → j < 5 → settleMoves j ≠ .evReset := by
  refine ⟨by decide, ⟨_, turns_run, by decide, by decide, turns_equalClocks, ?_, ?_, ?_, by decide⟩,
    ⟨_, settleMoves_run, by decide, by decide, ?_, ?_, ?_, ?_, by decide⟩⟩
  · unfold Deselects; rw [tickStates_play 0 (by omega), tickStates_play 1 (by omega)]; decide
  · intro j h0 h7
    rw [tickStates_play j (by omega)]
    exact (by decide : ∀ j, j < 7 → 0 < j → csLine (tickStates j).c.csN 0#1 = true) j h7 h0
  · rw [tickStates_play 7 le_rfl]; decide
  · intro n m hd hs
    obtain rfl := settleRun_deselects hd
    refine ⟨1, by omega, ?_, by unfold SeesDeselect; decide⟩
    rcases Nat.lt_or_ge 1 m with h | h
    · exact h
    · obtain ⟨_, _, _, d, he⟩ := hs
      obtain rfl : m = 1 := by omega
      cases he
  · unfold Deselects; decide
  · exact fun j h0 h5 => (by decide : ∀ j, j < 5 → 0 < j →
      csLine (settleRun j).c.csN 0#1 = true) j h5 h0
  · decide

/-- R111, R137: a responder that missed the select has no `RS.CSEDGE` for the deselect, so the premise does not hold. -/
theorem test_missed_select : ¬DeselectEdgesSeen 0#1 settleMoves (play settleMoves (sel 0#1 (inP P_DESELECT two))) := by
  intro h
  obtain ⟨j, h0, h2, hj⟩ := h 0 2 (by unfold Deselects; decide)
    ⟨by omega, fun j h0 h2 => (by decide : ∀ j, j ≤ 2 → 0 < j →
      (play settleMoves (sel 0#1 (inP P_DESELECT two)) j).c.csState = CS_SETTLING) j h2 h0, by decide, _, rfl⟩
  obtain rfl : j = 1 := by omega
  exact absurd hj (by unfold SeesDeselect; decide)

-- Witnesses, CSMUX and on

theorem witness_AssertDrivesOneLineLow :
    two.cfg.hasSlot 1#1 = true ∧ (inCs CS_SETTLING two).c.csState ≠ CS_STABLE
    ∧ ((sel 0#1 two).c.csState = CS_STABLE ∧ (sel 0#1 two).selected (~~~1#1) = true)
    ∧ (two.c.csState = CS_STABLE ∧ two.selected (~~~1#1) = false) := by decide

theorem witness_DeassertDrivesTheLineHighAndSettles :
    two.cfg.hasSlot 1#1 = true ∧ (inCs CS_SETTLING two).c.csState ≠ CS_STABLE
    ∧ (two.c.csState = CS_STABLE ∧ csLine two.c.csN 1#1 = true)
    ∧ ((sel 1#1 two).c.csState = CS_STABLE ∧ csLine (sel 1#1 two).c.csN 1#1 = false) := by decide

theorem witness_SelectReadReturnsLinesAndStatus : one.cfg.nResp = 1 ∧ two.cfg.nResp = 2 := by decide

/-- The step answers a next state from a state with one line low. -/
theorem witness_StepsKeepAtMostOneLineLow :
    Exclusive (sel 0#1 two) ∧ ∃ t, step (pend (.op 0x48#8 Payload.zero) (sel 0#1 two)) = .next t := by
  refine ⟨?_, _, rfl⟩
  unfold Exclusive; decide

theorem witness_OnlyADeselectStartsASettleDelay :
    ∃ t, exec (.csDeassert 1#1) (sel 1#1 two) = .next t ∧ (sel 1#1 two).c.csState = CS_STABLE
      ∧ t.c.csState ≠ CS_STABLE := ⟨_, rfl, by decide, by decide⟩

theorem witness_GuardDelayThenConversionRequest :
    (ticking.c.pState = P_GUARD ∧ ticking.cfg.time = .tickAccurate ∧ ticking.c.guardCnt ≠ 0#32)
    ∧ (ticking.mapC fun c => { c with guardCnt := 0#32 }).c.guardCnt = 0#32
    ∧ (two.c.pState = P_GUARD ∧ two.cfg.time = .timeAbstract)
    ∧ ((inP P_SAMPLE two).c.pState = P_SAMPLE ∧ (inP P_SAMPLE two).c.adcBusy = false)
    ∧ ((inP P_SAMPLE two).mapC fun c => { c with adcBusy := true }).c.adcBusy = true := by decide

theorem witness_ExclusionDeselectsTheOtherSlot :
    let s : State := inP P_EXCL two
    s.c.pState = P_EXCL ∧ (inCs CS_SETTLING s).c.csState ≠ CS_STABLE
    ∧ ((sel 1#1 s).c.csState = CS_STABLE ∧ (sel 1#1 s).selected (~~~(sel 1#1 s).c.slot) = true)
    ∧ (s.c.csState = CS_STABLE ∧ s.selected (~~~s.c.slot) = false) := by decide

theorem witness_SelectAndReselectAssertTheSlot :
    [P_SELECT, P_RESELECT].all (fun code =>
      let s : State := inP code two
      s.c.pState == code && (inCs CS_SETTLING s).c.csState != CS_STABLE && s.c.csState == CS_STABLE
        && !s.selected (~~~s.c.slot) && (sel 1#1 s).selected (~~~(sel 1#1 s).c.slot)
        && (sel 1#1 s).c.csState == CS_STABLE) = true := by decide

theorem witness_TransmitStatesStartTheirFrames :
    [P_TXDATA, P_TXSENT].all (fun code =>
      let s : State := inP code two
      s.c.pState == code && fsAssigned s.c.fsState && !s.c.busy && (sending s).c.busy) = true
    ∧ (two.cfg.slot 0#1).polled = false ∧ (two.cfg.slot 1#1).polled = true := by decide

theorem witness_DataFrameIsWaitedOutAndDiscarded :
    [P_WAITDATA, P_SKIP].all (fun code =>
      (inP code two).c.pState == code && !(inP code two).c.rdy
        && ((inP code two).mapC fun c => { c with rdy := true }).c.rdy) = true := by decide

theorem witness_DeselectThenSettle :
    let s : State := inP P_DESELECT two
    (s.c.pState = P_DESELECT ∧ (inCs CS_SETTLING s).c.csState ≠ CS_STABLE)
    ∧ ((sel 0#1 s).c.csState = CS_STABLE ∧ csLine (sel 0#1 s).c.csN (sel 0#1 s).c.slot = false)
    ∧ (s.c.csState = CS_STABLE ∧ csLine s.c.csN s.c.slot = true)
    ∧ ((inP P_SETTLE two).c.pState = P_SETTLE ∧ (inP P_SETTLE two).c.csState = CS_STABLE)
    ∧ (inCs CS_SETTLING (inP P_SETTLE two)).c.csState ≠ CS_STABLE := by decide

theorem witness_ReplyIsWaitedForAndReceived :
    ((inP P_WAITREPLY two).c.pState = P_WAITREPLY ∧ (inP P_WAITREPLY two).c.rdy = false)
    ∧ ((inP P_WAITREPLY two).mapC fun c => { c with rdy := true }).c.rdy = true
    ∧ (inP P_RECEIVE two).c.pState = P_RECEIVE := by decide

theorem witness_DisplayThenNextSlotOrIteration :
    let s : Slot → State := fun k => (inP P_DISPLAY two).mapC fun c => { c with slot := k }
    let n : Slot → State := fun k => (inP P_NEXT two).mapC fun c => { c with slot := k }
    ((s 1#1).c.pState = P_DISPLAY ∧ ((s 1#1).cfg.slot (s 1#1).c.slot).display = true)
    ∧ ((s 0#1).cfg.slot (s 0#1).c.slot).display = false
    ∧ ((n 0#1).c.pState = P_NEXT ∧ (n 0#1).c.slot.toNat + 1 < (n 0#1).cfg.nResp)
    ∧ (n 1#1).cfg.nResp ≤ (n 1#1).c.slot.toNat + 1 := by decide

theorem witness_PollFollowsItsStatePath :
    (∃ t, exec .pollNext (inP P_NEXT two) = .next t ∧ t.c.pState ≠ (inP P_NEXT two).c.pState)
    ∧ (∃ t, exec (.evTick .c) (inP P_TXDATA ticking) = .next t ∧ t.c.pState ≠ (inP P_TXDATA ticking).c.pState)
    ∧ (∃ t, exec (.evDeliver (some .poll)) two = .next t ∧ t.c.pState ≠ two.c.pState)
    ∧ (∃ t, exec (.evDeliver none) two = .next t ∧ t.c.pState ≠ two.c.pState) :=
  ⟨⟨_, rfl, by decide⟩, ⟨_, rfl, by decide⟩, ⟨_, rfl, by decide⟩, ⟨_, rfl, by decide⟩⟩

theorem witness_EnabledPinChangeSetsTheEdgeFlag :
    let cur : RNode → BitVec 2 := fun r => BitVec.ofBool r.decN ++ BitVec.ofBool r.incN
    let moved : RNode := { two.r1 with decN := false }
    two.cfg.hasSlot 1#1 = true ∧ (two.cfg.slot 1#1).variant = .counterDisplay ∧ respAssigned moved.rState = true
    ∧ (cur moved ^^^ moved.pinLast) &&& moved.edgeEn ≠ 0#2
    ∧ (cur moved ^^^ moved.pinLast) &&& ({ moved with edgeEn := 0b01#2 } : RNode).edgeEn = 0#2
    ∧ (cur two.r1 ^^^ two.r1.pinLast) &&& two.r1.edgeEn = 0#2 := by decide

theorem witness_PendingSourceIsDispatched :
    two.cfg.hasSlot 1#1 = true ∧ (two.rnode 1#1).rState = R_IDLE ∧ (two.rnode 0#1).rState = R_IDLE
    ∧ ((two.mapR 0#1 fun r => { r with irqfRx := true }).rnode 0#1).irqfRx = true
    ∧ ((two.cfg.slot 1#1).variant = .counterDisplay
      ∧ ((two.mapR 1#1 fun r => { r with edgeF := true }).rnode 1#1).edgeF = true)
    ∧ ¬((two.rnode 1#1).irqfRx = true ∨ ((two.cfg.slot 1#1).variant = .counterDisplay ∧ (two.rnode 1#1).edgeF = true)) := by
  decide

theorem witness_ServiceRunsPendingHandlersEdgeFirst :
    two.cfg.hasSlot 1#1 = true ∧ ((inR 1#1 R_SERVICE two).rnode 1#1).rState = R_SERVICE := by decide

theorem witness_EdgeHandlerAdjustsTheCounterOnce :
    two.cfg.hasSlot 1#1 = true ∧ (two.cfg.slot 1#1).variant = .counterDisplay
    ∧ respAssigned (two.rnode 1#1).rState = true ∧ respAssigned ((inR 1#1 R_SERVICE two).rnode 1#1).rState = true := by decide

theorem witness_DisplayHandlerShowsAndStages :
    two.cfg.hasSlot 1#1 = true ∧ (two.cfg.slot 1#1).variant = .counterDisplay ∧ (two.rnode 1#1).bitcntR = 0#4
    ∧ respAssigned (two.rnode 1#1).rState = true
    ∧ ((two.mapR 1#1 fun r => { r with bitcntR := 1#4 }).rnode 1#1).bitcntR ≠ 0#4 := by decide

theorem witness_PwmHandlerWritesTheSplitDuty :
    two.cfg.hasSlot 0#1 = true ∧ (two.cfg.slot 0#1).variant = .pwm ∧ respAssigned (two.rnode 0#1).rState = true := by decide

theorem witness_LinearMapIsTheExactIntegerForm :
    two.cfg.hasSlot 0#1 = true ∧ two.cfg.inMin = 0 ∧ two.cfg.inMax = 255 ∧ (two.cfg.slot 0#1).outMin ≤ 1023
    ∧ (two.cfg.slot 0#1).outMax ≤ 1023 ∧ respAssigned (two.rnode 0#1).rState = true
    ∧ (cfgd { Config.twoResponders with slot0 := { Config.pwmSlot with outMin := 1023, outMax := 0 } } two).cfg.slot0.outMin
        ≤ 1023 := by decide

theorem witness_LinearMapIsMonotoneWithExactEnds :
    let sc : SlotConfig := { Config.pwmSlot with outMin := 0, outMax := 1023 }
    Config.twoResponders.inMin = 0 ∧ Config.twoResponders.inMax = 255 ∧ sc.outMin ≤ 1023 ∧ sc.outMax ≤ 1023
    ∧ sc.outMin ≤ sc.outMax ∧ (0#8).toNat ≤ (255#8).toNat := by decide

theorem witness_CounterLaw :
    two.cfg.hasSlot 1#1 = true ∧ (two.cfg.slot 1#1).variant = .counterDisplay ∧ (two.rnode 1#1).edgeEn = 0b11#2
    ∧ (two.rnode 1#1).pinLast = 0b11#2 ∧ (two.rnode 1#1).incN = true ∧ (two.rnode 1#1).decN = true
    ∧ (two.rnode 1#1).edgeF = false ∧ (two.rnode 1#1).irqfRx = false ∧ (two.rnode 1#1).rState = R_IDLE := by decide

theorem witness_SamplerCopiesTheExpectedChannel :
    two.c.sState = S_IDLE ∧ two.c.adif = false ∧ (two.mapC fun c => { c with adif := true }).c.adif = true := by decide

theorem witness_ConversionAndPinEvents :
    let s : State := two.mapC fun c => { c with adcBusy := true }
    (s.c.adcBusy = true ∧ 0#4 = s.c.adcChsel) ∧ ¬(s.c.adcBusy = true ∧ 1#4 = s.c.adcChsel)
    ∧ ¬(two.c.adcBusy = true ∧ 0#4 = two.c.adcChsel) ∧ two.cfg.hasSlot 1#1 = true := by decide

theorem witness_ControllerTickRunsItsUnitsInOrder :
    let s : State := inFs FS_COMPLETE (inCs CS_SETTLING (inP P_SKIP ticking))
    s.cfg.time = .tickAccurate ∧ fsAssigned s.c.fsState = true ∧ csAssigned s.c.csState = true
    ∧ pollAssigned s.c.pState = true ∧ decode (0b000#3 ++ s.c.fsState) Payload.zero = some .fsComplete
    ∧ decode (0b010#3 ++ s.c.csState) Payload.zero = some .csSettling
    ∧ decode (0b011#3 ++ s.c.pState) Payload.zero = some .pollSkip ∧ two.cfg.time = .timeAbstract := by decide

theorem witness_ResponderTickRunsItsUnitsInOrder :
    ticking.cfg.hasSlot 1#1 = true ∧ ticking.cfg.time = .tickAccurate ∧ (ticking.rnode 1#1).rState = R_IDLE
    ∧ ((inR 1#1 R_SERVICE ticking).rnode 1#1).rState = R_SERVICE ∧ two.cfg.time = .timeAbstract
    ∧ respAssigned ((inR 1#1 0x02#5 ticking).rnode 1#1).rState = false
    ∧ respAssigned ((inR 0#1 0x1F#5 ticking).rnode 0#1).rState = false
    ∧ (ticking.cfg.slot 1#1).variant = .counterDisplay := by decide

-- A fair run: the settle delay ends, then reset and the end of the guard delay take turns

/-- After a reset nothing is enabled but the end of the guard delay, whatever the draws were. -/
theorem reset_quiet (u : State) (hu : u.cfg = Config.twoResponders) (i : Instr)
    (hi : owedFairness .timeAbstract i = true) (hne : i ≠ .evDeliver (some .poll)) : ¬Enabled i (evReset u) := by
  rintro ⟨⟨t, ht, hts⟩, -⟩
  have h : exec i (evReset u) = .next (evReset u) := by
    obtain ⟨cfg, _, _, _, _, _, _, _, _⟩ := u
    cases hu
    cases i with
    | evDeliver d =>
      cases d with
      | none => simp [owedFairness] at hi
      | some d => cases d <;> first | rfl | exact absurd rfl hne
    | rsCsedge k => rcases slot_cases k with e | e <;> subst e <;> with_unfolding_all rfl
    | respIdle k => rcases slot_cases k with e | e <;> subst e <;> rfl
    | respService k => rcases slot_cases k with e | e <;> subst e <;> rfl
    | respPindet k => rcases slot_cases k with e | e <;> subst e <;> with_unfolding_all rfl
    | _ => first | rfl | (simp [owedFairness, isMove, Instr.kind] at hi)
  rw [h] at ht
  exact hts (Host.Outcome.next.inj ht).symm

/-- The moves of the run. -/
def fairMoves : Nat → Instr
  | 0 => .evDeliver (some .csmux)
  | n + 1 => if n % 2 = 0 then .evReset else .evDeliver (some .poll)

/-- The states of the run, from `s`. -/
def fairRun (s : State) : Nat → State
  | 0 => s
  | 1 => evDeliver (some .csmux) s
  | n + 2 => if n % 2 = 0 then evReset (fairRun s (n + 1)) else evDeliver (some .poll) (fairRun s (n + 1))

/-- The configuration of every state of the run. -/
theorem fairRun_cfg (s : State) (hs : s.cfg = Config.twoResponders) : ∀ n, (fairRun s n).cfg = Config.twoResponders
  | 0 => hs
  | 1 => by
    simp only [fairRun]
    exact (exec_items (i := .evDeliver (some .csmux)) rfl).2.2.trans hs
  | n + 2 => by
    simp only [fairRun]
    split
    · exact fairRun_cfg s hs (n + 1)
    · exact (exec_items (i := .evDeliver (some .poll)) rfl).2.2.trans (fairRun_cfg s hs (n + 1))

/-- Its moves are moves of the machine. -/
theorem fairRun_isRun (s : State) (hs : s.cfg = Config.twoResponders) : IsRun fairMoves (fairRun s) := by
  constructor
  · intro n
    rw [fairRun_cfg s hs]
    cases n with
    | zero => decide
    | succ n => simp only [fairMoves]; split <;> decide
  · intro n
    match n with
    | 0 => rfl
    | n + 1 => simp only [fairMoves, fairRun]; split <;> rfl

/-- It is fair. -/
theorem fairRun_fair (s : State) (hs : s.cfg = Config.twoResponders) : Fair fairMoves (fairRun s) := by
  constructor
  · intro i n hi
    rw [fairRun_cfg s hs] at hi
    refine ⟨2 * n + 2, by omega, ?_⟩
    by_cases hne : i = .evDeliver (some .poll)
    · right; subst hne; simp only [fairMoves]; rw [if_neg (by omega)]
    · left
      have : fairRun s (2 * n + 2) = evReset (fairRun s (2 * n + 1)) := by simp [fairRun]
      rw [this]
      exact reset_quiet _ (fairRun_cfg s hs _) i hi hne
  · intro node n h; rw [fairRun_cfg s hs] at h; cases h
  · intro k i n h; rw [fairRun_cfg s hs] at h; cases h

theorem witness_DeliverEndsARunningDelay :
    ((two.cfg.time = .timeAbstract ∧ (inCs CS_SETTLING two).c.csState = CS_SETTLING ∧ two.c.pState = P_GUARD)
      ∧ ticking.cfg.time = .tickAccurate ∧ (inP P_SAMPLE two).c.csState ≠ CS_SETTLING
      ∧ (inP P_SAMPLE two).c.pState ≠ P_GUARD ∧ (inCs CS_SETTLING (inP P_SETTLE two)).c.pState ≠ P_GUARD)
    ∧ ∃ (moves : Nat → Instr) (run : Nat → State), IsRun moves run ∧ Fair moves run ∧ run 0 = inCs CS_SETTLING two
      ∧ (run 0).cfg.time = .timeAbstract ∧ (run 0).c.csState = CS_SETTLING ∧ (run 0).c.pState = P_GUARD :=
  ⟨by decide, fairMoves, fairRun (inCs CS_SETTLING two), fairRun_isRun _ rfl, fairRun_fair _ rfl, rfl, rfl, rfl, rfl⟩

theorem witness_UnassignedCodesRaiseIllegalState :
    (Instr.pollSkip.unit = .poll ∧ pollAssigned (inP 0x0F#5 two).c.pState = false
      ∧ pollAssigned (inP 0x1F#5 two).c.pState = false)
    ∧ (Instr.fsIdle.unit = .fseq ∧ Instr.fsIdle.kind = .state ∧ (inFs 0x04#5 two).c.stalledC = false
      ∧ fsAssigned (inFs 0x04#5 two).c.fsState = false)
    ∧ (Instr.csSettling.unit = .csmux ∧ Instr.csSettling.kind = .state ∧ csAssigned (inCs 0x02#5 two).c.csState = false)
    ∧ smpAssigned (two.mapC fun c => { c with sState := 0x01#5 }).c.sState = false
    ∧ (two.cfg.hasSlot 1#1 = true ∧ respAssigned ((inR 1#1 0x02#5 two).rnode 1#1).rState = false
      ∧ (two.cfg.slot 1#1).variant = .counterDisplay)
    ∧ (two.cfg.hasSlot 0#1 = true ∧ respAssigned ((inR 0#1 0x1F#5 two).rnode 0#1).rState = false
      ∧ (two.cfg.slot 0#1).variant = .pwm) := by decide

theorem witness_OperationsThatAreNotEnabledHold :
    (two.mapC fun c => { c with stalledC := true }).c.stalledC = true
    ∧ (fsAssigned two.c.fsState = true ∧ encodeWord .fsDrive ≠ 0b000#3 ++ two.c.fsState)
    ∧ (csAssigned two.c.csState = true ∧ encodeWord .csSettling ≠ 0b010#3 ++ two.c.csState)
    ∧ (pollAssigned (inP P_SKIP two).c.pState = true ∧ encodeWord .pollNext ≠ 0b011#3 ++ (inP P_SKIP two).c.pState)
    ∧ (two.cfg.hasSlot 1#1 = true ∧ respAssigned (two.rnode 1#1).rState = true
      ∧ encodeWord (.respService 1#1) ≠ 0b100#3 ++ (two.rnode 1#1).rState)
    ∧ (two.cfg.slot 0#1).variant = .pwm ∧ (two.cfg.slot 1#1).variant = .counterDisplay := by decide

theorem witness_StuckUnitsStayStuckUntilReset :
    (∃ t, exec .fsBufr (sending (two.mapC fun c => { c with stalledC := true })) = .next t)
    ∧ Instr.fsBufr ≠ .evReset ∧ fsAssigned (inFs 0x04#5 two).c.fsState = false
    ∧ csAssigned (inCs 0x02#5 two).c.csState = false ∧ pollAssigned (inP 0x0F#5 two).c.pState = false
    ∧ smpAssigned (two.mapC fun c => { c with sState := 0x01#5 }).c.sState = false
    ∧ respAssigned ((inR 1#1 0x02#5 two).rnode 1#1).rState = false
    ∧ (sending (two.mapC fun c => { c with stalledC := true })).c.busy = true :=
  ⟨⟨_, rfl⟩, by decide, by decide, by decide, by decide, by decide, by decide, by decide⟩

/-- The operation raises a second fault bit beside one that is set. -/
theorem witness_OnlyResetClearsAFaultBit :
    ∃ t, exec (.fsBufw 0#8) (sending (two.mapC fun c => { c with faultC := CS_EXCL })) = .next t
      ∧ Instr.fsBufw 0#8 ≠ .evReset ∧ t.c.faultC = 0x09#8 := ⟨_, rfl, by decide, by decide⟩

theorem witness_RegistersHaveTheirSoleWriters :
    (∃ t, exec .smpIsr (two.mapC fun c => { c with adres := 9#8 }) = .next t ∧ t.c.sampled ≠ two.c.sampled)
    ∧ (∃ t, exec .pollReceive ((inP P_RECEIVE two).mapC fun c => { c with rxbufC := 9#8 }) = .next t
      ∧ t.c.reply ≠ two.c.reply)
    ∧ (∃ t, exec .pollDisplay ((inP P_DISPLAY two).mapC fun c => { c with reply := 9#8, slot := 1#1 }) = .next t
      ∧ t.c.ledC ≠ two.c.ledC)
    ∧ (∃ t, exec (.respHEdge 1#1) (two.mapR 1#1 fun r => { r with incN := false }) = .next t
      ∧ (t.rnode 1#1).counter ≠ (two.rnode 1#1).counter)
    ∧ (∃ t, exec (.respHRxDisplay 1#1) (two.mapR 1#1 fun r => { r with rxbufR := 9#8 }) = .next t
      ∧ (t.rnode 1#1).ledR ≠ (two.rnode 1#1).ledR)
    ∧ (∃ t, exec (.respPwmsplit 0#1 5#10) two = .next t ∧ (t.rnode 0#1).duty ≠ (two.rnode 0#1).duty) :=
  ⟨⟨_, rfl, by decide⟩, ⟨_, rfl, by decide⟩, ⟨_, rfl, by decide⟩, ⟨_, rfl, by decide⟩, ⟨_, rfl, by decide⟩,
    ⟨_, rfl, by decide⟩⟩

theorem witness_StepsKeepTheConfiguration :
    ConfigLoaded two ∧ ∃ t, step (two.placeWord 0x61) = .next t :=
  ⟨⟨by decide, by decide, by decide, by decide, by decide⟩, _, rfl⟩

/-- A state in the middle of a frame, with one line low and a partial byte in the responder. -/
theorem witness_StepsKeepTheInvariant :
    let s : State := ((sel 1#1 (inFs FS_SAMPLE (sending two))).mapC fun c => { c with bitcntC := 3#4 }).mapR 1#1
      fun r => { r with bitcntR := 6#4, csSeen := false }
    Inv s ∧ ∃ t, step (s.placeWord 0x02) = .next t := by
  refine ⟨⟨?_, ⟨?_, ?_, ?_, ?_, ?_, ?_⟩, ⟨?_, ?_, ?_, ?_, ?_, ?_, ?_⟩, ⟨?_, ?_, ?_⟩, ⟨?_, ?_, ?_, ?_, ?_⟩⟩, _, rfl⟩
  · unfold Exclusive; decide
  all_goals decide

theorem witness_ResetMeetsTheInvariant : Config.oneResponder.ok = true ∧ Config.twoResponders.ok = true := by decide

/-- The state before the reply frame of slot 1. -/
theorem witness_ServicedReplyIsTheCounter :
    let s : State := ((sel 1#1 (inP P_DESELECT two)).mapC fun c => { c with slot := 1#1 }).mapR 1#1
      fun r => { r with irqfRx := true, rxf := true }
    s.cfg.time = .timeAbstract ∧ s.cfg.hasSlot 1#1 = true ∧ (s.cfg.slot 1#1).variant = .counterDisplay
    ∧ s.c.pState = P_DESELECT ∧ s.c.slot = 1#1 ∧ s.c.csState = CS_STABLE ∧ s.c.stalledC = false
    ∧ s.c.fsState = FS_IDLE ∧ s.c.busy = false ∧ s.selected 1#1 = true ∧ s.selected (~~~1#1) = false
    ∧ (s.rnode 1#1).rState = R_IDLE ∧ (s.rnode 1#1).irqfRx = true ∧ (s.rnode 1#1).edgeF = false
    ∧ (s.rnode 1#1).bitcntR = 0#4 ∧ (s.cfg.slot 1#1).display = true := by decide

theorem witness_UnservicedReplyIsTheByteLeftInTheShiftRegister :
    let s : State := ((sel 1#1 (inP P_DESELECT two)).mapC fun c => { c with slot := 1#1 }).mapR 1#1
      fun r => { r with rxf := true }
    s.cfg.time = .timeAbstract ∧ s.cfg.hasSlot 1#1 = true ∧ s.c.pState = P_DESELECT ∧ s.c.slot = 1#1
    ∧ s.c.csState = CS_STABLE ∧ s.c.stalledC = false ∧ s.c.fsState = FS_IDLE ∧ s.c.busy = false
    ∧ s.selected 1#1 = true ∧ s.selected (~~~1#1) = false ∧ (s.rnode 1#1).rxf = true
    ∧ (s.rnode 1#1).bitcntR = 0#4 := by decide

end Tests
end Machine
end Sys2Proof
end

section
/-! Byte transport (spec/40_transport.md): what the words of FSEQ and RSHIFT answer, and the statements that follow. -/

namespace Sys2Proof
namespace Machine

-- FSEQ: the word of the state the unit is in

/-- A word of FSEQ takes its step where FSEQ is in the state it names and has not stalled. -/
theorem fseqAt_of_state {code : Code} {s : State} (f : State → State) (hs : s.c.stalledC = false)
    (h : s.c.fsState = code) : fseqAt code f s = f s := by
  simp [fseqAt, atState, hs, h]

theorem exec_fsSample {s : State} (hs : s.c.stalledC = false) (h : s.c.fsState = FS_SAMPLE) :
    exec .fsSample s = .next (fsSample s) :=
  congrArg Host.Outcome.next (fseqAt_of_state fsSample hs h)

theorem exec_fsComplete {s : State} (hs : s.c.stalledC = false) (h : s.c.fsState = FS_COMPLETE) :
    exec .fsComplete s = .next (fsComplete s) :=
  congrArg Host.Outcome.next (fseqAt_of_state fsComplete hs h)

-- The half bit (R102, R103, R265)

/-- In a tick model the half bit goes on while ticks remain. -/
theorem halfBit_goes_on {s : State} (ht : s.cfg.time = .tickAccurate) (hd : s.c.divcntC ≠ 0#16) :
    (s.counting && s.c.divcntC != 0#16) = true := by
  simp [State.counting, ht, hd]

/-- The half bit ends at once where time is abstract, and where no tick remains. -/
theorem halfBit_ends {s : State} (h : s.cfg.time = .timeAbstract ∨ s.c.divcntC = 0#16) :
    (s.counting && s.c.divcntC != 0#16) = false := by
  rcases h with h | h <;> simp [State.counting, h]

/-- A tick inside the trailing half bit. -/
theorem fsSample_tick {s : State} (h : (s.counting && s.c.divcntC != 0#16) = true) :
    fsSample s = s.mapC fun c => { c with sck := !s.driveLevel, divcntC := s.c.divcntC - 1#16 } :=
  if_pos h

/-- The trailing half of the last bit ends the frame. -/
theorem fsSample_lastBit {s : State} (h : (s.counting && s.c.divcntC != 0#16) = false) (hb : s.c.bitcntC = 1#4) :
    fsSample s = s.mapC fun c => { c with sck := !s.driveLevel, bitcntC := 0#4, fsState := FS_COMPLETE } := by
  simp [fsSample, h, hb, State.mapC]

/-- The trailing half of any other bit goes on to the next bit. -/
theorem fsSample_nextBit {s : State} (h : (s.counting && s.c.divcntC != 0#16) = false) (hb : s.c.bitcntC ≠ 1#4) :
    fsSample s = s.mapC fun c => { c with sck := !s.driveLevel, bitcntC := s.c.bitcntC - 1#4,
                                          divcntC := s.divReload, fsState := FS_DRIVE } := by
  have hb' : s.c.bitcntC - 1#4 ≠ 0#4 := fun e => hb (sub_eq_zero.mp e)
  simp [fsSample, h, hb', State.mapC]

-- The sample edge with no single sender (R36, R103); `sampleEdge_one` is the edge with one

/-- With both slots selected both responders shift, CONTENTION is raised, and C shifts in the drawn bit. -/
theorem sampleEdge_both {s : State} (h0 : s.selected 0#1 = true) (h1 : s.selected 1#1 = true) :
    sampleEdge s = { s with
      c := { s.c.raise CONTENTION with srC := shiftIn s.c.srC s.nextBit }
      r0 := s.r0.shift (s.c.srC.getLsbD 7), r1 := s.r1.shift (s.c.srC.getLsbD 7)
      drawIdx := s.drawIdx + 1 } := by
  simp [sampleEdge, State.miso, h0, h1]

/-- With no slot selected `UNSEL_C` is set, and C shifts in the drawn bit. -/
theorem sampleEdge_none {s : State} (h0 : s.selected 0#1 = false) (h1 : s.selected 1#1 = false) :
    sampleEdge s = { s with
      c := { s.c with unselC := true, srC := shiftIn s.c.srC s.nextBit }
      drawIdx := s.drawIdx + 1 } := by
  simp [sampleEdge, State.miso, h0, h1]

/-- Settles O12: the sample edge by how many responders are selected, the trailing half by the ticks and bits left. -/
theorem sampleEdgeShiftsAndTheBitIsCounted : Obligations.SampleEdgeShiftsAndTheBitIsCounted := by
  unfold Obligations.SampleEdgeShiftsAndTheBitIsCounted
  refine ⟨sampleEdge_one, fun s h0 h1 => ⟨s.nextBit, sampleEdge_both h0 h1⟩,
    fun s h0 h1 => ⟨s.nextBit, sampleEdge_none h0 h1⟩, fun s hs hst => ?_⟩
  rw [exec_fsSample hs hst]
  refine ⟨fun ht hd => ?_, fun hd hb => ?_, fun hd hb => ?_⟩
  · exact congrArg _ (fsSample_tick (halfBit_goes_on ht hd))
  · exact congrArg _ (fsSample_lastBit (halfBit_ends hd) hb)
  · exact congrArg _ (fsSample_nextBit (halfBit_ends hd) hb)

-- The end of the frame (R106)

/-- A frame whose every sample edge found a responder, or with stalls switched off, completes. -/
theorem fsComplete_completes {s : State} (h : ¬(s.c.unselC = true ∧ s.cfg.stallOnUnselected = true)) :
    fsComplete s = s.mapC (·.completeFrame s.cfg.cpol) := by
  simp only [fsComplete, Bool.and_eq_true, if_neg h]

/-- An unselected frame, stalls switched on: a draw completes it or stalls FSEQ. -/
theorem fsComplete_draws {s : State} (h : s.c.unselC = true ∧ s.cfg.stallOnUnselected = true) :
    fsComplete s = (s.mapC (·.completeFrame s.cfg.cpol)).drew 1
      ∨ fsComplete s = (s.mapC fun c => { c with stalledC := true }).drew 1 := by
  simp only [fsComplete, Bool.and_eq_true, if_pos h]
  cases s.nextBit
  · exact .inl rfl
  · exact .inr rfl

/-- Settles O13, by whether the frame may stall, and then by the draw. -/
theorem completionLatchesTheByteOrStalls : Obligations.CompletionLatchesTheByteOrStalls := by
  unfold Obligations.CompletionLatchesTheByteOrStalls
  intro s hs hst
  rw [exec_fsComplete hs hst]
  exact ⟨fun h => congrArg _ (fsComplete_completes h),
    fun h => (fsComplete_draws h).imp (congrArg _) (congrArg _)⟩

-- RSHIFT (R110, R112)

section rshift
variable {s : State} {k : Slot} (hk : s.cfg.hasSlot k = true)
include hk

theorem exec_rsShift_selected (b : Bool) (h : s.selected k = true) :
    exec (.rsShift k b) s = .next (s.setRnode k ((s.rnode k).shift b)) :=
  (onSlot_next _ hk).trans (congrArg _ (if_pos h))

theorem exec_rsShift_unselected (b : Bool) (h : s.selected k = false) : exec (.rsShift k b) s = .next s :=
  (onSlot_next _ hk).trans (congrArg _ (if_neg (by simp [h])))

theorem exec_rsComplete : exec (.rsComplete k) s = .next (s.setRnode k (s.rnode k).complete) :=
  onSlot_next (·.mapR k RNode.complete) hk

end rshift

-- `shift_cases` and `complete_cases` in the case a hypothesis picks

section rnode
variable {r : RNode}

theorem shift_of_bitcntR_eq (b : Bool) (h : r.bitcntR = 7#4) :
    r.shift b = RNode.complete { r with srR := shiftIn r.srR b, bitcntR := 0#4 } :=
  ((shift_cases r b).resolve_right fun e => e.1 h).2

theorem shift_of_bitcntR_ne (b : Bool) (h : r.bitcntR ≠ 7#4) :
    r.shift b = { r with srR := shiftIn r.srR b, bitcntR := r.bitcntR + 1#4 } :=
  ((shift_cases r b).resolve_left fun e => h e.1).2

theorem complete_of_rxf (h : r.rxf = true) : r.complete = { r.raise OVF with irqfRx := true } :=
  ((complete_cases r).resolve_right (by simp [h])).2

theorem complete_of_not_rxf (h : r.rxf = false) :
    r.complete = { r with rxbufR := r.srR, rxf := true, irqfRx := true } :=
  ((complete_cases r).resolve_left (by simp [h])).2

end rnode

/-- Settles O17: the shift by the select line and the bit count, the completion by `RXF`. On the eighth bit both sides
are the completed node that `RNode.shift` gives. -/
theorem selectedResponderShiftsAndCompletes : Obligations.SelectedResponderShiftsAndCompletes := by
  unfold Obligations.SelectedResponderShiftsAndCompletes
  intro s k b hk
  refine ⟨fun hsel hn => ?_, fun hsel h7 => ?_, exec_rsShift_unselected hk b, fun hf => ?_, fun hf => ?_⟩
  · rw [exec_rsShift_selected hk b hsel, shift_of_bitcntR_ne b hn, shiftIn]
  · rw [exec_rsShift_selected hk b hsel, shift_of_bitcntR_eq b h7, exec_rsComplete (by simpa using hk),
      setRnode_rnode_self, setRnode_setRnode, shiftIn]
  · rw [exec_rsComplete hk, complete_of_rxf hf, RNode.raise]
  · rw [exec_rsComplete hk, complete_of_not_rxf hf]

end Machine
end Sys2Proof
end

section
/-! Chip select (spec/41_chip_select.md): what `CS.ASSERT` and `CS.DEASSERT` do in each case of R133 and R134, alone and
inside the POLL states that invoke them (R153, R154, R157, R159), and the statements that follow. -/

namespace Sys2Proof
namespace Machine

/-- A select change touches no register but `FAULT_C`, where it raises CS_IN_FRAME during a frame. -/
theorem inFrame_eq (c : CNode) :
    c.inFrame = { c with faultC := if c.busy then c.faultC ||| CS_IN_FRAME else c.faultC } := by
  unfold CNode.inFrame CNode.raise
  split <;> rfl

section
variable {s : State} {k : Slot}

-- CS.ASSERT (R133)

theorem exec_csAssert (hk : s.cfg.hasSlot k = true) : exec (.csAssert k) s = .next (csAssert k s) :=
  onSlot_next (csAssert k) hk

theorem csAssert_waits (h : s.c.csState ≠ CS_STABLE) : csAssert k s = s := if_neg h

theorem csAssert_stable (h : s.c.csState = CS_STABLE) : csAssert k s = assertLine k s := if_pos h

theorem assertLine_refused (h : s.selected (~~~k) = true) :
    assertLine k s = s.mapC fun c => c.inFrame.raise CS_EXCL :=
  if_pos h

theorem assertLine_drives (h : s.selected (~~~k) = false) :
    assertLine k s = s.mapC fun c => { c.inFrame with csN := c.csN &&& ~~~lineMask k } :=
  if_neg (Bool.eq_false_iff.mp h)

-- CS.DEASSERT (R134)

theorem exec_csDeassert (hk : s.cfg.hasSlot k = true) : exec (.csDeassert k) s = .next (csDeassert k s) :=
  onSlot_next (csDeassert k) hk

theorem csDeassert_waits (h : s.c.csState ≠ CS_STABLE) : csDeassert k s = s := if_neg h

theorem csDeassert_stable (h : s.c.csState = CS_STABLE) : csDeassert k s = deassertLine k s := if_pos h

theorem deassertLine_high (h : csLine s.c.csN k = true) : deassertLine k s = s.mapC CNode.inFrame := if_pos h

theorem deassertLine_low (h : csLine s.c.csN k = false) :
    deassertLine k s = s.mapC fun c =>
      { c.inFrame with csN := c.csN ||| lineMask k, settleCnt := BitVec.ofNat 32 s.cfg.settleTicks,
                       csState := CS_SETTLING } :=
  if_neg (Bool.eq_false_iff.mp h)

end

/-- Settles O22: the wait by `CS_STATE`, then the refusal or the low line by the other slot's line. -/
theorem assertDrivesOneLineLow : Obligations.AssertDrivesOneLineLow := by
  unfold Obligations.AssertDrivesOneLineLow
  intro s k hk
  rw [exec_csAssert hk]
  refine ⟨fun hw => ?_, fun hs hother => ?_, fun hs hother => ?_⟩
  · rw [csAssert_waits hw]
  · rw [csAssert_stable hs, assertLine_refused hother, State.mapC, inFrame_eq, CNode.raise]
  · rw [csAssert_stable hs, assertLine_drives hother, State.mapC, inFrame_eq]

/-- Settles O23: the wait by `CS_STATE`, then the high or the low line. -/
theorem deassertDrivesTheLineHighAndSettles : Obligations.DeassertDrivesTheLineHighAndSettles := by
  unfold Obligations.DeassertDrivesTheLineHighAndSettles
  intro s k hk
  rw [exec_csDeassert hk]
  refine ⟨fun hw => ?_, fun hs hhigh => ?_, fun hs hlow => ?_⟩
  · rw [csDeassert_waits hw]
  · rw [csDeassert_stable hs, deassertLine_high hhigh, State.mapC, inFrame_eq]
  · rw [csDeassert_stable hs, deassertLine_low hlow, State.mapC, inFrame_eq]

end Machine
end Sys2Proof
end

section
/-! POLL (spec/42_poll_fsm.md): the step each word of POLL takes in the state it names, the waits for `CS_STABLE`, the
write of `BUF_C`, and the statements that follow. -/

namespace Sys2Proof
namespace Machine

section
variable {s : State}

-- The word of the state POLL is in

/-- A word of POLL takes its step where POLL is in the state it names. -/
theorem pollAt_of_state {code : Code} (f : State → State) (h : s.c.pState = code) : pollAt code f s = f s := if_pos h

theorem exec_pollSelect (h : s.c.pState = P_SELECT) : exec .pollSelect s = .next (pollSelect s) :=
  congrArg _ (pollAt_of_state pollSelect h)

theorem exec_pollTxdata (h : s.c.pState = P_TXDATA) : exec .pollTxdata s = .next (pollTxdata s) :=
  congrArg _ (pollAt_of_state pollTxdata h)

theorem exec_pollDeselect (h : s.c.pState = P_DESELECT) : exec .pollDeselect s = .next (pollDeselect s) :=
  congrArg _ (pollAt_of_state pollDeselect h)

theorem exec_pollSettle (h : s.c.pState = P_SETTLE) : exec .pollSettle s = .next (pollSettle s) :=
  congrArg _ (pollAt_of_state pollSettle h)

theorem exec_pollReselect (h : s.c.pState = P_RESELECT) : exec .pollReselect s = .next (pollReselect s) :=
  congrArg _ (pollAt_of_state pollReselect h)

theorem exec_pollTxsent (h : s.c.pState = P_TXSENT) : exec .pollTxsent s = .next (pollTxsent s) :=
  congrArg _ (pollAt_of_state pollTxsent h)

theorem exec_pollDisplay (h : s.c.pState = P_DISPLAY) : exec .pollDisplay s = .next (pollDisplay s) :=
  congrArg _ (pollAt_of_state pollDisplay h)

theorem exec_pollNext (h : s.c.pState = P_NEXT) : exec .pollNext s = .next (pollNext s) :=
  congrArg _ (pollAt_of_state pollNext h)

-- The wait for `CS_STABLE` (R154, R157–R159)

theorem pollWhen_waits (f : State → State) (h : s.c.csState ≠ CS_STABLE) : pollWhen s.stable f s = s :=
  if_neg (by simpa [State.stable] using h)

theorem pollWhen_stable (f : State → State) (h : s.c.csState = CS_STABLE) : pollWhen s.stable f s = f s :=
  if_pos (by simpa [State.stable] using h)

-- The write of `BUF_C` (R104)

theorem fsBufw_starts (v : Byte) (hfs : fsAssigned s.c.fsState = true) (hb : s.c.busy = false) :
    fsBufw v s = s.mapC fun c =>
      { c with srC := v, bitcntC := 8#4, divcntC := s.divReload, unselC := false, rdy := false, busy := true,
               fsState := FS_DRIVE } := by
  simpa [fsBufw, State.mapC, hfs, hb] using bufw_cases s.c v s.divReload

theorem fsBufw_collides (v : Byte) (hfs : fsAssigned s.c.fsState = true) (hb : s.c.busy = true) :
    fsBufw v s = s.mapC (·.raise WCOL) := by
  simpa [fsBufw, State.mapC, hfs, hb] using bufw_cases s.c v s.divReload

-- The display and the slot (R163, R164)

theorem pollDisplay_shows (h : (s.cfg.slot s.c.slot).display = true) :
    pollDisplay s = s.mapC fun c => { c with ledC := c.reply, pState := P_NEXT } :=
  congrArg (goP P_NEXT) (if_pos h)

theorem pollDisplay_hidden (h : (s.cfg.slot s.c.slot).display = false) : pollDisplay s = goP P_NEXT s :=
  congrArg (goP P_NEXT) (if_neg (Bool.eq_false_iff.mp h))

theorem pollNext_nextSlot (h : s.c.slot.toNat + 1 < s.cfg.nResp) :
    pollNext s = s.mapC fun c => { c with slot := c.slot + 1#1, pState := P_EXCL } := if_pos h

theorem pollNext_lastSlot (h : s.cfg.nResp ≤ s.c.slot.toNat + 1) :
    pollNext s = s.mapC fun c =>
      { c with slot := 0#1, guardCnt := BitVec.ofNat 32 s.cfg.adcGuardTicks, pState := P_GUARD } :=
  if_neg (Nat.not_lt.mpr h)

end

/-- Settles O29: both words are the same step but for the state they lead to; the wait by `CS_STATE`, then the cases of
`CS.ASSERT` by the other slot's line. -/
theorem selectAndReselectAssertTheSlot : Obligations.SelectAndReselectAssertTheSlot := by
  unfold Obligations.SelectAndReselectAssertTheSlot
  intro s i here after hi hst
  have hexec : exec i s = .next (pollWhen s.stable (fun s => goP after (csAssert s.c.slot s)) s) := by
    rcases hi with ⟨rfl, rfl, rfl⟩ | ⟨rfl, rfl, rfl⟩
    · exact exec_pollSelect hst
    · exact exec_pollReselect hst
  rw [hexec]
  refine ⟨fun hw => ?_, fun hs hother => ?_, fun hs hother => ?_⟩
  · rw [pollWhen_waits _ hw]
  · rw [pollWhen_stable _ hs, csAssert_stable hs, assertLine_drives hother, goP, State.mapC, State.mapC, inFrame_eq]
  · rw [pollWhen_stable _ hs, csAssert_stable hs, assertLine_refused hother, goP, State.mapC, State.mapC, inFrame_eq,
      CNode.raise]

/-- Settles O30: both words write a byte to `BUF_C` and go on; the write by `BUSY`. -/
theorem transmitStatesStartTheirFrames : Obligations.TransmitStatesStartTheirFrames := by
  unfold Obligations.TransmitStatesStartTheirFrames
  intro s i v after hi hfs
  have hexec : exec i s = .next (goP after (fsBufw v s)) := by
    rcases hi with ⟨rfl, hst, rfl, rfl⟩ | ⟨rfl, hst, rfl, rfl⟩
    · exact exec_pollTxdata hst
    · exact exec_pollTxsent hst
  rw [hexec]
  refine ⟨fun hb => ?_, fun hb => ?_⟩
  · rw [fsBufw_starts v hfs hb, goP, State.mapC, State.mapC, State.divReload]
  · rw [fsBufw_collides v hfs hb, goP, State.mapC, State.mapC, CNode.raise]

/-- Settles O32: the waits by `CS_STATE`, then the cases of `CS.DEASSERT` by the slot's line. -/
theorem deselectThenSettle : Obligations.DeselectThenSettle := by
  unfold Obligations.DeselectThenSettle
  intro s
  refine ⟨fun hst hw => ?_, fun hst hs hlow => ?_, fun hst hs hhigh => ?_, fun hst hw => ?_, fun hst hs => ?_⟩
  · rw [exec_pollDeselect hst, pollDeselect, pollWhen_waits _ hw]
  · rw [exec_pollDeselect hst, pollDeselect, pollWhen_stable _ hs, csDeassert_stable hs, deassertLine_low hlow, goP,
      State.mapC, State.mapC, inFrame_eq]
  · rw [exec_pollDeselect hst, pollDeselect, pollWhen_stable _ hs, csDeassert_stable hs, deassertLine_high hhigh, goP,
      State.mapC, State.mapC, inFrame_eq]
  · rw [exec_pollSettle hst, pollSettle, pollWhen_waits _ hw]
  · rw [exec_pollSettle hst, pollSettle, pollWhen_stable _ hs, goP, State.mapC]

/-- Settles O34: `POLL.DISPLAY` by the slot's display setting, `POLL.NEXT` by whether a slot is left. -/
theorem displayThenNextSlotOrIteration : Obligations.DisplayThenNextSlotOrIteration := by
  unfold Obligations.DisplayThenNextSlotOrIteration
  intro s
  refine ⟨fun hst hd => ?_, fun hst hd => ?_, fun hst hn => ?_, fun hst hn => ?_⟩
  · rw [exec_pollDisplay hst, pollDisplay_shows hd, State.mapC]
  · rw [exec_pollDisplay hst, pollDisplay_hidden hd, goP, State.mapC]
  · rw [exec_pollNext hst, pollNext_nextSlot hn, State.mapC]
  · rw [exec_pollNext hst, pollNext_lastSlot hn, State.mapC]

end Machine
end Sys2Proof
end

section
/-! RESP (spec/43_response_fsm.md): what the words of a responder's interrupt source, its dispatch, its service and its
handlers answer, what each leaves in the node (R181–R186), and the statements that follow. -/

namespace Sys2Proof
namespace Machine

-- The word of RESP in its variant, and of the state it is in

section exec
variable {s : State} {k : Slot} (hk : s.cfg.hasSlot k = true)

/-- A word of a variant's RESP takes its step where the responder is of that variant and its code is assigned. -/
theorem inVariant_taken {v : Variant} (f : RNode → RNode) (hv : (s.cfg.slot k).variant = v)
    (ha : respAssigned (s.rnode k).rState = true) : inVariant v k f s = s.setRnode k (f (s.rnode k)) :=
  (if_pos hv).trans (respOwn_assigned _ ha)

/-- A word of a RESP state takes its step where RESP is in that state. -/
theorem respAt_of_state {code : Code} (f : RNode → RNode) (h : (s.rnode k).rState = code) :
    respAt k code f s = s.setRnode k (f (s.rnode k)) :=
  if_pos h

include hk

theorem exec_respPindet (hv : (s.cfg.slot k).variant = .counterDisplay)
    (ha : respAssigned (s.rnode k).rState = true) :
    exec (.respPindet k) s = .next (s.setRnode k (s.rnode k).pindet) :=
  (onSlot_next _ hk).trans (congrArg _ (inVariant_taken RNode.pindet hv ha))

theorem exec_respHEdge (hv : (s.cfg.slot k).variant = .counterDisplay)
    (ha : respAssigned (s.rnode k).rState = true) :
    exec (.respHEdge k) s = .next (s.setRnode k (s.rnode k).hEdge) :=
  (onSlot_next _ hk).trans (congrArg _ (inVariant_taken RNode.hEdge hv ha))

theorem exec_respHRxDisplay (hv : (s.cfg.slot k).variant = .counterDisplay)
    (ha : respAssigned (s.rnode k).rState = true) :
    exec (.respHRxDisplay k) s = .next (s.setRnode k (s.rnode k).hRxDisplay) :=
  (onSlot_next _ hk).trans (congrArg _ (inVariant_taken RNode.hRxDisplay hv ha))

theorem exec_respHRxPwm (hv : (s.cfg.slot k).variant = .pwm) (ha : respAssigned (s.rnode k).rState = true) :
    exec (.respHRxPwm k) s = .next (s.setRnode k ((s.rnode k).hRxPwm s.cfg (s.cfg.slot k))) :=
  (onSlot_next _ hk).trans (congrArg _ (inVariant_taken (·.hRxPwm s.cfg (s.cfg.slot k)) hv ha))

theorem exec_respIdle (h : (s.rnode k).rState = R_IDLE) :
    exec (.respIdle k) s = .next (s.setRnode k ((s.rnode k).idle (s.cfg.slot k).variant)) :=
  (onSlot_next _ hk).trans (congrArg _ (respAt_of_state (·.idle (s.cfg.slot k).variant) h))

theorem exec_respService (h : (s.rnode k).rState = R_SERVICE) :
    exec (.respService k) s = .next (s.setRnode k ((s.rnode k).service s.cfg (s.cfg.slot k))) :=
  (onSlot_next _ hk).trans (congrArg _ (respAt_of_state (·.service s.cfg (s.cfg.slot k)) h))

end exec

-- What each step leaves in the node

section rnode
variable {r : RNode}

-- The edge-interrupt source (R181)

theorem pindet_of_change (h : (r.pins ^^^ r.pinLast) &&& r.edgeEn ≠ 0#2) :
    r.pindet = { r with edgeF := true, pinLast := r.pins } := by
  simp [RNode.pindet, h]

theorem pindet_of_no_change (h : (r.pins ^^^ r.pinLast) &&& r.edgeEn = 0#2) :
    r.pindet = { r with pinLast := r.pins } := by
  simp [RNode.pindet, h]

-- The dispatch (R182)

/-- The pending sources of a variant: the bus receive, and in a counter responder the edge. -/
theorem pending_iff {v : Variant} :
    r.pending v = true ↔ r.irqfRx = true ∨ (v = .counterDisplay ∧ r.edgeF = true) := by
  simp [RNode.pending]

theorem idle_of_pending {v : Variant} (h : r.irqfRx = true ∨ (v = .counterDisplay ∧ r.edgeF = true)) :
    r.idle v = { r with rState := R_SERVICE } :=
  if_pos (pending_iff.mpr h)

theorem idle_of_not_pending {v : Variant} (h : ¬(r.irqfRx = true ∨ (v = .counterDisplay ∧ r.edgeF = true))) :
    r.idle v = r :=
  if_neg (mt pending_iff.mp h)

-- The handlers' acknowledgement (R115)

theorem irqclr_edge : r.irqclr 0b01#8 = { r with edgeF := false } := by
  simp [RNode.irqclr]

theorem irqclr_rx : r.irqclr 0b10#8 = { r with irqfRx := false } := by
  simp [RNode.irqclr]

-- The edge handler (R184)

/-- The one adjustment of an edge interrupt, the increment before the decrement. -/
theorem adjusted_eq : r.adjusted =
    if r.edgeEn.getLsbD 0 = true ∧ r.incN = false then r.counter + 1#8
    else if r.edgeEn.getLsbD 1 = true ∧ r.decN = false then r.counter - 1#8
    else r.counter := by
  simp only [RNode.adjusted, Bool.and_eq_true, Bool.not_eq_true']

theorem hEdge_eq : r.hEdge = { r with counter := r.adjusted, edgeF := false } := irqclr_edge

-- The bus-receive handler of the counter and display variant (R185)

theorem hRxDisplay_stages (h : r.bitcntR = 0#4) :
    r.hRxDisplay = { r with rxf := false, ledR := r.rxbufR, srR := r.counter, irqfRx := false } := by
  have hw : RNode.bufw { r.bufr with ledR := r.rxbufR } r.counter =
      { r.bufr with ledR := r.rxbufR, srR := r.counter } := if_pos h
  rw [RNode.hRxDisplay, hw, irqclr_rx, RNode.bufr]

theorem hRxDisplay_collides (h : r.bitcntR ≠ 0#4) :
    r.hRxDisplay =
      { r with rxf := false, ledR := r.rxbufR, faultR := r.faultR ||| WCOL_R, irqfRx := false } := by
  have hw : RNode.bufw { r.bufr with ledR := r.rxbufR } r.counter =
      RNode.raise { r.bufr with ledR := r.rxbufR } WCOL_R := if_neg h
  rw [RNode.hRxDisplay, hw, irqclr_rx, RNode.raise, RNode.bufr]

-- The parts of a service (R183)

/-- The edge handler leaves the bus-receive flag, so the service still finds it pending. -/
@[simp] theorem serviceEdge_irqfRx (v : Variant) : (r.serviceEdge v).irqfRx = r.irqfRx := by
  unfold RNode.serviceEdge
  split
  · rw [hEdge_eq]
  · rfl

theorem serviceRx_not_pending (cfg : Config) (sc : SlotConfig) (h : ¬r.irqfRx = true) : r.serviceRx cfg sc = r :=
  if_neg h

theorem serviceRx_display (cfg : Config) {sc : SlotConfig} (h : r.irqfRx = true)
    (hv : sc.variant = .counterDisplay) : r.serviceRx cfg sc = r.hRxDisplay := by
  simp only [RNode.serviceRx, h, hv, if_true]

theorem serviceRx_pwm (cfg : Config) {sc : SlotConfig} (h : r.irqfRx = true) (hv : sc.variant = .pwm) :
    r.serviceRx cfg sc = r.hRxPwm cfg sc := by
  simp only [RNode.serviceRx, h, hv, if_true]

end rnode

-- Operations in order

/-- Operations run in order go on from where the first of them end. -/
theorem runOps_append {is js : List Instr} {s t : State} (h : runOps is s = .next t) :
    runOps (is ++ js) s = runOps js t := by
  induction is generalizing s with
  | nil => cases h; rfl
  | cons i is ih =>
    simp only [List.cons_append, runOps] at h ⊢
    split at h
    · exact ih h
    · cases h
    · cases h

/-- One operation run alone. -/
theorem runOps_singleton {i : Instr} {s t : State} (h : exec i s = .next t) : runOps [i] s = .next t := by
  simp only [runOps, h]

/-- The edge handler's word where its source is pending is the edge handler's part of the service. -/
theorem runOps_edgeHandler {s : State} {k : Slot} (hk : s.cfg.hasSlot k = true)
    (ha : respAssigned (s.rnode k).rState = true) :
    runOps (if (s.cfg.slot k).variant = .counterDisplay ∧ (s.rnode k).edgeF = true then [.respHEdge k] else []) s =
      .next (s.setRnode k ((s.rnode k).serviceEdge (s.cfg.slot k).variant)) := by
  unfold RNode.serviceEdge
  split
  next h => exact runOps_singleton (exec_respHEdge hk h.1 ha)
  next => rw [runOps, setRnode_rnode_eq]

/-- The display handler's word where its flag is pending is the bus-receive handler's part of the service. -/
theorem runOps_displayHandler {s : State} {k : Slot} (hk : s.cfg.hasSlot k = true)
    (ha : respAssigned (s.rnode k).rState = true) (h : (s.rnode k).irqfRx = true)
    (hv : (s.cfg.slot k).variant = .counterDisplay) :
    runOps [.respHRxDisplay k] s = .next (s.setRnode k ((s.rnode k).serviceRx s.cfg (s.cfg.slot k))) := by
  rw [serviceRx_display s.cfg h hv]
  exact runOps_singleton (exec_respHRxDisplay hk hv ha)

/-- The PWM handler's word where its flag is pending is the bus-receive handler's part of the service. -/
theorem runOps_pwmHandler {s : State} {k : Slot} (hk : s.cfg.hasSlot k = true)
    (ha : respAssigned (s.rnode k).rState = true) (h : (s.rnode k).irqfRx = true)
    (hv : (s.cfg.slot k).variant = .pwm) :
    runOps [.respHRxPwm k] s = .next (s.setRnode k ((s.rnode k).serviceRx s.cfg (s.cfg.slot k))) := by
  rw [serviceRx_pwm s.cfg h hv]
  exact runOps_singleton (exec_respHRxPwm hk hv ha)

/-- Settles O36, by whether an enabled pin changed. -/
theorem enabledPinChangeSetsTheEdgeFlag : Obligations.EnabledPinChangeSetsTheEdgeFlag := by
  unfold Obligations.EnabledPinChangeSetsTheEdgeFlag
  intro s k hk hv ha r cur
  rw [exec_respPindet hk hv ha]
  refine ⟨fun h => ?_, fun h => ?_⟩
  · rw [pindet_of_change h]; rfl
  · rw [pindet_of_no_change h]; rfl

/-- Settles O37, by whether a source of the variant is pending. -/
theorem pendingSourceIsDispatched : Obligations.PendingSourceIsDispatched := by
  unfold Obligations.PendingSourceIsDispatched
  intro s k hk hst
  rw [exec_respIdle hk hst]
  refine ⟨fun h => ?_, fun h => ?_⟩
  · rw [idle_of_pending h]
  · rw [idle_of_not_pending h, setRnode_rnode_eq]

/-- Settles O38: the edge handler's part of the service, and after it the bus-receive handler's, each by whether its
source is pending; the first part leaves the variant and the flag by which the second is chosen. -/
theorem serviceRunsPendingHandlersEdgeFirst : Obligations.ServiceRunsPendingHandlersEdgeFirst := by
  unfold Obligations.ServiceRunsPendingHandlersEdgeFirst
  intro s k hk hst
  have ha : respAssigned (s.rnode k).rState = true := by rw [hst]; rfl
  let t₁ := s.setRnode k ((s.rnode k).serviceEdge (s.cfg.slot k).variant)
  refine ⟨t₁.setRnode k ((t₁.rnode k).serviceRx t₁.cfg (t₁.cfg.slot k)), ?_, ?_⟩
  · rw [runOps_append (runOps_edgeHandler hk ha)]
    have hcfg : t₁.cfg = s.cfg := setRnode_cfg ..
    have hk₁ : t₁.cfg.hasSlot k = true := hcfg ▸ hk
    have ha₁ : respAssigned (t₁.rnode k).rState = true := by simpa [t₁] using ha
    have hrx : (t₁.rnode k).irqfRx = (s.rnode k).irqfRx := by simp [t₁]
    split
    next h =>
      split
      next hv => exact runOps_displayHandler hk₁ ha₁ (hrx.trans h) (by rwa [hcfg])
      next hv => exact runOps_pwmHandler hk₁ ha₁ (hrx.trans h) (by rwa [hcfg])
    next h => rw [runOps, serviceRx_not_pending _ _ (hrx ▸ h), setRnode_rnode_eq]
  · rw [exec_respService hk hst, setRnode_rnode_self, setRnode_setRnode, setRnode_setRnode, setRnode_rnode_self,
      setRnode_cfg]
    rfl

/-- Settles O39: the adjusted counter, then `EDGE_F` cleared. -/
theorem edgeHandlerAdjustsTheCounterOnce : Obligations.EdgeHandlerAdjustsTheCounterOnce := by
  unfold Obligations.EdgeHandlerAdjustsTheCounterOnce
  intro s k hk hv ha
  rw [exec_respHEdge hk hv ha, hEdge_eq, adjusted_eq]

/-- Settles O40, by whether a frame is part-way. -/
theorem displayHandlerShowsAndStages : Obligations.DisplayHandlerShowsAndStages := by
  unfold Obligations.DisplayHandlerShowsAndStages
  intro s k hk hv ha
  rw [exec_respHRxDisplay hk hv ha]
  refine ⟨fun h => ?_, fun h => ?_⟩
  · rw [hRxDisplay_stages h]
  · rw [hRxDisplay_collides h]

end Machine
end Sys2Proof
end

section
/-! Whole-machine invariants: what a move can do to the select lines and to a responder node, said once, and the properties
that every move and a reset keep, so that every step keeps them. -/

namespace Sys2Proof
namespace Machine

-- A property of the machine that every move keeps

/-- A property that reads neither the items nor the draws, and that every move and a reset keep, is kept by every step. -/
theorem step_keeps {P : State → Prop} (htaken : ∀ s script owed n, P s → P (s.taken script owed n))
    (hmove : ∀ s t, P s → Move s t → P t) (hreset : ∀ s, P s → P (evReset s)) {s t : State} (hs : P s)
    (h : step s = .next t) : P t := by
  obtain ⟨script, owed, n, hm | ⟨u, hm, rfl⟩⟩ := step_moves h
  · exact hm.keep hmove (htaken s script owed n hs)
  · exact hreset u (hm.keep hmove (htaken s script owed n hs))

-- What a move can do to `C`'s select lines and to a responder node

@[simp] theorem bufw_csN (c : CNode) (v : Byte) (d : BitVec 16) : (c.bufw v d).csN = c.csN := by
  unfold CNode.bufw; repeat' split
  all_goals rfl

/-- A move leaves the select lines, or drives one low while no other is, or drives one high. -/
theorem Move.csN_cases {s t : State} (h : Move s t) :
    t.c.csN = s.c.csN
      ∨ (∃ k, s.otherSelected k = false ∧ t.c.csN = s.c.csN &&& ~~~lineMask k)
      ∨ ∃ k, t.c.csN = s.c.csN ||| lineMask k := by
  cases h with
  | select _ k =>
    rcases assertLine_cases k s with ⟨_, e⟩ | ⟨ho, e⟩ <;> rw [e]
    · exact .inl (inFrame_csN s.c)
    · exact .inr (.inl ⟨k, ho, rfl⟩)
  | deselect _ k =>
    rcases deassertLine_cases k s with ⟨_, e⟩ | ⟨_, e⟩ <;> rw [e]
    · exact .inl (inFrame_csN s.c)
    · exact .inr (.inr ⟨k, rfl⟩)
  | edge _ _ => exact .inl (sampleEdge_csN s)
  | write v => exact .inl (bufw_csN ..)
  | nextSlot _ => left; unfold pollNext; split <;> rfl
  | responder k r _ => left; rw [setRnode_c]
  | _ => exact .inl rfl

/-- A sample edge shifts a selected responder and leaves another. -/
theorem sampleEdge_rnode (s : State) (k : Slot) :
    (sampleEdge s).rnode k = if s.selected k then (s.rnode k).shift (s.c.srC.getLsbD 7) else s.rnode k := by
  rcases slot_cases k with rfl | rfl <;> rfl

/-- A move leaves a responder node, or is one of the node's own moves. -/
theorem Move.rnode_cases {s t : State} (h : Move s t) (k : Slot) :
    t.rnode k = s.rnode k ∨ RMove s.cfg (s.cfg.slot k) (csLine s.c.csN k) (s.rnode k) (t.rnode k) := by
  cases h with
  | edge _ _ =>
    have he := sampleEdge_rnode s k
    split at he
    · exact .inr (he ▸ .shift _ _)
    · exact .inl he
  | responder j r hr =>
    rw [setRnode_rnode]
    split
    next e => subst e; exact .inr hr
    next => exact .inl rfl
  | select _ j => left; rcases assertLine_cases j s with ⟨_, e⟩ | ⟨_, e⟩ <;> rw [e, mapC_rnode]
  | deselect _ j => left; rcases deassertLine_cases j s with ⟨_, e⟩ | ⟨_, e⟩ <;> rw [e, mapC_rnode]
  | nextSlot _ => left; unfold pollNext; split <;> rfl
  | _ => exact .inl rfl

/-- A property of a responder node that every one of its moves keeps. -/
theorem Move.rnode_keeps {P : RNode → Prop} {s t : State} (h : Move s t) (k : Slot)
    (hP : ∀ r', RMove s.cfg (s.cfg.slot k) (csLine s.c.csN k) (s.rnode k) r' → P r') (hs : P (s.rnode k)) :
    P (t.rnode k) := by
  rcases h.rnode_cases k with e | m
  · rwa [e]
  · exact hP _ m

theorem Move.cfg_eq {s t : State} (h : Move s t) : t.cfg = s.cfg := h.items.2.2

-- Mutual exclusion of the select lines (R136)

/-- Which slots are selected follows from `CS_N` under one configuration. -/
theorem Move.exclusive {s t : State} (h : Move s t) (hs : Exclusive s) : Exclusive t := by
  have hcfg := h.cfg_eq
  rintro ⟨h0, h1⟩
  rcases h.csN_cases with e | ⟨k, ho, e⟩ | ⟨k, e⟩
  · exact hs ⟨by rwa [← selected_congr 0#1 hcfg e], by rwa [← selected_congr 1#1 hcfg e]⟩
  · rcases slot_cases k with rfl | rfl <;>
      simp_all [State.otherSelected, State.selected, csLine_assert]
  · rcases slot_cases k with rfl | rfl <;> simp [State.selected, e, csLine_deassert] at h0 h1

end Machine
end Sys2Proof
end

section
/-! The machine's invariant (spec/40_transport.md, spec/60_exceptions.md R226): how fault bits grow, and the parts of the
invariant move by move. -/

namespace Sys2Proof
namespace Machine

-- Fault bits grow (R226, R227)

/-- `f'` is `f` with bits raised, all of them outside `mask` where `p` holds. -/
def Raised (p : Prop) (mask f f' : Byte) : Prop := ∃ b, f' = f ||| b ∧ (p → b &&& mask = 0#8)

theorem Raised.refl (p : Prop) (mask f : Byte) : Raised p mask f f :=
  ⟨0#8, BitVec.or_zero.symm, fun _ => BitVec.zero_and⟩

theorem Raised.bit {p : Prop} {mask : Byte} (f b : Byte) (h : p → b &&& mask = 0#8) : Raised p mask f (f ||| b) :=
  ⟨b, rfl, h⟩

theorem Raised.trans {p : Prop} {mask f f' f'' : Byte} (h : Raised p mask f f') (h' : Raised p mask f' f'') :
    Raised p mask f f'' := by
  obtain ⟨b, rfl, hb⟩ := h
  obtain ⟨b', rfl, hb'⟩ := h'
  exact ⟨b ||| b', BitVec.or_assoc .., fun hp => by
    rw [BitVec.and_or_distrib_right, hb hp, hb' hp, BitVec.or_self]⟩

/-- Bits under the mask stay 0. -/
theorem Raised.mask_clear {p : Prop} {mask f f' : Byte} (h : Raised p mask f f') (hp : p) (hf : f &&& mask = 0#8) :
    f' &&& mask = 0#8 := by
  obtain ⟨b, rfl, hb⟩ := h
  rw [BitVec.and_or_distrib_right, hf, hb hp, BitVec.or_self]

/-- No bit is cleared. -/
theorem Raised.none_cleared {p : Prop} {mask f f' : Byte} (h : Raised p mask f f') : f &&& ~~~f' = 0#8 := by
  obtain ⟨b, rfl, -⟩ := h
  simp [BitVec.not_or, ← BitVec.and_assoc]

/-- The reserved and unreachable bits of `FAULT_C` and `FAULT_R` (R226, R266). -/
abbrev unreachableC : Byte := 0xE6#8
abbrev unreachableR : Byte := 0xF4#8

/-- A move of a responder raises fault bits, ILLEGAL_STATE where its code is unassigned alone. -/
theorem RMove.faultR_raised {cfg : Config} {sc : SlotConfig} {csn : Bool} {r r' : RNode} (m : RMove cfg sc csn r r') :
    Raised (respAssigned r.rState = true) unreachableR r.faultR r'.faultR := by
  have hcomplete (r : RNode) (p : Prop) : Raised p unreachableR r.faultR r.complete.faultR := by
    rcases complete_cases r with ⟨_, e⟩ | ⟨_, e⟩ <;> rw [e]
    · exact .bit _ _ fun _ => by decide
    · exact .refl ..
  cases m with
  | illegal h => exact .bit _ _ (by simp [h])
  | shift b =>
    rcases shift_cases r b with ⟨_, e⟩ | ⟨_, e⟩ <;> rw [e]
    · exact hcomplete _ _
    · exact .refl ..
  | complete => exact hcomplete r _
  | csedge =>
    unfold RNode.csedge
    split
    · split
      · exact .refl ..
      · exact .bit _ _ fun _ => by decide
    · exact .refl ..
  | bufw v =>
    rcases rbufw_cases r v with ⟨_, e⟩ | ⟨_, e⟩ <;> rw [e]
    · exact .refl ..
    · exact .bit _ _ fun _ => by decide
  | setPin p l => cases p <;> exact .refl ..
  | _ => exact .refl ..

theorem inFrame_faultC_raised (p : Prop) (c : CNode) : Raised p unreachableC c.faultC c.inFrame.faultC := by
  rw [inFrame_eq]
  split
  · exact .bit _ _ fun _ => by decide
  · exact .refl ..

/-- The codes of the FSMs of `C` are assigned and at most one line is low: what keeps ILLEGAL_STATE and CONTENTION away. -/
def NoIllegalC (s : State) : Prop :=
  (fsAssigned s.c.fsState = true ∧ csAssigned s.c.csState = true ∧ pollAssigned s.c.pState = true
    ∧ smpAssigned s.c.sState = true) ∧ Exclusive s

/-- A sample edge changes `SR_C`, `UNSEL_C` and, where both slots are selected, CONTENTION of node `C`. -/
theorem sampleEdge_c (s : State) : ∃ sr u f, (sampleEdge s).c = { s.c with srC := sr, unselC := u, faultC := f }
      ∧ Raised (Exclusive s) unreachableC s.c.faultC f := by
  cases h0 : s.selected 0#1 <;> cases h1 : s.selected 1#1 <;> simp only [sampleEdge, h0, h1]
  · exact ⟨_, _, _, rfl, .refl ..⟩
  · exact ⟨_, _, _, rfl, .refl ..⟩
  · exact ⟨_, _, _, rfl, .refl ..⟩
  · exact ⟨_, _, _, rfl, .bit _ _ fun hx => absurd ⟨h0, h1⟩ hx⟩

/-- A move raises fault bits of `C`, ILLEGAL_STATE and CONTENTION in their cases alone. -/
theorem Move.faultC_raised {s t : State} (m : Move s t) : Raised (NoIllegalC s) unreachableC s.c.faultC t.c.faultC := by
  cases m with
  | illegal h =>
    refine .bit _ _ fun ⟨⟨h1, h2, h3, h4⟩, _⟩ => ?_
    simp [h1, h2, h3, h4] at h
  | edge _ _ =>
    obtain ⟨_, _, f, e, b, hf, hb⟩ := sampleEdge_c s
    exact ⟨b, by rw [e, hf], fun h => hb h.2⟩
  | write v =>
    rcases bufw_cases s.c v s.divReload with ⟨h, e⟩ | ⟨_, _, e⟩ | ⟨_, _, e⟩ <;> simp only [fsBufw, mapC_c, e]
    · exact .bit _ _ fun hx => by simp [hx.1.1] at h
    · exact .bit _ _ fun _ => by decide
    · exact .refl ..
  | select _ k =>
    rcases assertLine_cases k s with ⟨_, e⟩ | ⟨_, e⟩ <;> rw [e]
    · exact (inFrame_faultC_raised _ s.c).trans (.bit _ _ fun _ => by decide)
    · exact inFrame_faultC_raised _ s.c
  | deselect _ k =>
    rcases deassertLine_cases k s with ⟨_, e⟩ | ⟨_, e⟩ <;> rw [e] <;> exact inFrame_faultC_raised _ s.c
  | nextSlot _ => unfold pollNext; split <;> exact .refl ..
  | responder k r _ => rw [setRnode_c]; exact .refl ..
  | _ => exact .refl ..

/-- Settles O54: every move of an operation only raises bits. -/
theorem onlyResetClearsAFaultBit : Obligations.OnlyResetClearsAFaultBit := by
  unfold Obligations.OnlyResetClearsAFaultBit
  intro i s t h hi
  have keepC : Raised False unreachableC s.c.faultC t.c.faultC :=
    (exec_moves h hi).keep (P := fun u => Raised False unreachableC s.c.faultC u.c.faultC)
      (fun u v hu m => hu.trans (by obtain ⟨b, e, -⟩ := m.faultC_raised; exact ⟨b, e, False.elim⟩)) (.refl ..)
  have keepR (k : Slot) : Raised False unreachableR (s.rnode k).faultR (t.rnode k).faultR := by
    refine (exec_moves h hi).keep (P := fun u => Raised False unreachableR (s.rnode k).faultR (u.rnode k).faultR)
      (fun u v hu m => ?_) (.refl ..)
    refine m.rnode_keeps k (P := fun r => Raised False unreachableR (s.rnode k).faultR r.faultR) (fun r' mr => ?_) hu
    obtain ⟨b, e, -⟩ := mr.faultR_raised
    exact hu.trans ⟨b, e, False.elim⟩
  exact ⟨keepC.none_cleared, fun k => (keepR k).none_cleared⟩

-- Responder nodes: the code, the bit count, the registers loaded from the configuration

/-- One bit shifted in below the eighth stays below 8. -/
theorem bitcntR_succ_le {b : BitVec 4} (hle : b.toNat ≤ 7) (hne : b ≠ 7#4) : (b + 1#4).toNat ≤ 7 := by
  revert b; decide

theorem RMove.bits_le {cfg : Config} {sc : SlotConfig} {csn : Bool} {r r' : RNode} (m : RMove cfg sc csn r r')
    (h : r.bitcntR.toNat ≤ 7) : r'.bitcntR.toNat ≤ 7 := by
  cases m with
  | shift b =>
    rcases shift_cases r b with ⟨_, e⟩ | ⟨h7, e⟩ <;> rw [e]
    · simp
    · exact bitcntR_succ_le h h7
  | complete => rwa [complete_bitcntR]
  | csedge =>
    unfold RNode.csedge
    split
    · simp
    · exact h
  | bufw v => rcases rbufw_cases r v with ⟨_, e⟩ | ⟨_, e⟩ <;> rw [e] <;> exact h
  | setPin p l => cases p <;> exact h
  | _ => exact h

@[simp] theorem csedge_rState (r : RNode) (csn : Bool) : (r.csedge csn).rState = r.rState := by
  unfold RNode.csedge; repeat' split
  all_goals rfl

@[simp] theorem setPin_rState (r : RNode) (p : Pin) (l : Bool) : (r.setPin p l).rState = r.rState := by
  cases p <;> rfl

/-- RESP changes its code by its dispatch and by the end of its service alone. -/
theorem RMove.rState_cases {cfg : Config} {sc : SlotConfig} {csn : Bool} {r r' : RNode} (m : RMove cfg sc csn r r') :
    r'.rState = r.rState ∨ (r.rState = R_IDLE ∧ r'.rState = R_SERVICE) ∨ (r.rState = R_SERVICE ∧ r'.rState = R_IDLE) := by
  cases m with
  | enter h => exact .inr (.inl ⟨h, rfl⟩)
  | leave h => exact .inr (.inr ⟨h, rfl⟩)
  | shift b => simp
  | complete => simp
  | csedge => simp
  | bufw v => simp
  | setPin p l => simp
  | _ => exact .inl rfl

theorem RMove.keeps_assigned {cfg : Config} {sc : SlotConfig} {csn : Bool} {r r' : RNode} (m : RMove cfg sc csn r r')
    (h : respAssigned r.rState = true) : respAssigned r'.rState = true := by
  rcases m.rState_cases with e | ⟨_, e⟩ | ⟨_, e⟩ <;> rw [e]
  · exact h
  · rfl
  · rfl

/-- No move of a responder changes a register loaded from the configuration (R32, R33). -/
theorem RMove.loaded {cfg : Config} {sc : SlotConfig} {csn : Bool} {r r' : RNode} (m : RMove cfg sc csn r r') :
    r'.ctrlR = r.ctrlR ∧ r'.edgeEn = r.edgeEn ∧ r'.pwmPr = r.pwmPr := by
  have hcomplete (r : RNode) :
      r.complete.ctrlR = r.ctrlR ∧ r.complete.edgeEn = r.edgeEn ∧ r.complete.pwmPr = r.pwmPr := by
    rcases complete_cases r with ⟨_, e⟩ | ⟨_, e⟩ <;> rw [e] <;> exact ⟨rfl, rfl, rfl⟩
  cases m with
  | shift b =>
    rcases shift_cases r b with ⟨_, e⟩ | ⟨_, e⟩ <;> rw [e]
    · exact hcomplete _
    · exact ⟨rfl, rfl, rfl⟩
  | complete => exact hcomplete r
  | csedge =>
    unfold RNode.csedge; repeat' split
    all_goals exact ⟨rfl, rfl, rfl⟩
  | bufw v => rcases rbufw_cases r v with ⟨_, e⟩ | ⟨_, e⟩ <;> rw [e] <;> exact ⟨rfl, rfl, rfl⟩
  | setPin p l => cases p <;> exact ⟨rfl, rfl, rfl⟩
  | _ => exact ⟨rfl, rfl, rfl⟩

/-- No move changes a register of `C` loaded from the configuration (R27, R29). -/
theorem Move.loadedC {s t : State} (m : Move s t) : t.c.ctrlC = s.c.ctrlC ∧ t.c.adcChsel = s.c.adcChsel := by
  cases m with
  | edge _ _ => obtain ⟨_, _, _, e, -⟩ := sampleEdge_c s; rw [e]; exact ⟨rfl, rfl⟩
  | write v =>
    rcases bufw_cases s.c v s.divReload with ⟨_, e⟩ | ⟨_, _, e⟩ | ⟨_, _, e⟩ <;> rw [fsBufw, mapC_c, e] <;>
      exact ⟨rfl, rfl⟩
  | select _ k =>
    rcases assertLine_cases k s with ⟨_, e⟩ | ⟨_, e⟩ <;> rw [e, mapC_c, inFrame_eq] <;> exact ⟨rfl, rfl⟩
  | deselect _ k =>
    rcases deassertLine_cases k s with ⟨_, e⟩ | ⟨_, e⟩ <;> rw [e, mapC_c, inFrame_eq] <;> exact ⟨rfl, rfl⟩
  | nextSlot _ => unfold pollNext; split <;> exact ⟨rfl, rfl⟩
  | responder k r _ => rw [setRnode_c]; exact ⟨rfl, rfl⟩
  | _ => exact ⟨rfl, rfl⟩

theorem Move.configLoaded {s t : State} (m : Move s t) (h : ConfigLoaded s) : ConfigLoaded t := by
  have hcfg := m.cfg_eq
  have hr (k : Slot) : (t.rnode k).ctrlR = (s.rnode k).ctrlR ∧ (t.rnode k).edgeEn = (s.rnode k).edgeEn
      ∧ (t.rnode k).pwmPr = (s.rnode k).pwmPr := by
    rcases m.rnode_cases k with e | mr
    · rw [e]; exact ⟨rfl, rfl, rfl⟩
    · exact mr.loaded
  exact ⟨by rw [m.loadedC.1, hcfg, h.ctrlC], by rw [m.loadedC.2, hcfg, h.adcChsel],
    fun k => by rw [(hr k).1, hcfg, h.ctrlR], fun k => by rw [(hr k).2.1, hcfg, h.edgeEn],
    fun k => by rw [(hr k).2.2, hcfg, h.pwmPr]⟩

-- The frame sequencer (R24, R101, R106)

/-- `FrameCoherent` reads these six registers. -/
theorem FrameCoherent.congr {c c' : CNode} {p : Bool} (h : FrameCoherent c p) (hst : c'.fsState = c.fsState)
    (hbusy : c'.busy = c.busy) (hbits : c'.bitcntC = c.bitcntC) (hsck : c'.sck = c.sck) (hrdy : c'.rdy = c.rdy)
    (hstall : c'.stalledC = c.stalledC) : FrameCoherent c' p := by
  obtain ⟨h1, h2, h3, h4, h5, h6⟩ := h
  constructor <;> simpa only [hst, hbusy, hbits, hsck, hrdy, hstall]

/-- Within a frame: `BUSY`, not `RDY`, bits left. -/
theorem FrameCoherent.of_bits {c : CNode} {p : Bool} (hst : c.fsState = FS_DRIVE ∨ c.fsState = FS_SAMPLE)
    (hbusy : c.busy = true) (hrdy : c.rdy = false) (hstall : c.stalledC = false)
    (hbits : 1 ≤ c.bitcntC.toNat ∧ c.bitcntC.toNat ≤ 8) : FrameCoherent c p := by
  constructor <;> rcases hst with h | h <;>
    simp [h, hbusy, hrdy, hstall, hbits, FS_IDLE, FS_DRIVE, FS_SAMPLE, FS_COMPLETE]

/-- After the eighth bit: `BUSY`, not `RDY`, no bit left. -/
theorem FrameCoherent.of_complete {c : CNode} {p : Bool} (hst : c.fsState = FS_COMPLETE) (hbusy : c.busy = true)
    (hrdy : c.rdy = false) (hbits : c.bitcntC = 0#4) : FrameCoherent c p := by
  constructor <;> simp [hst, hbusy, hrdy, hbits, FS_IDLE, FS_DRIVE, FS_SAMPLE, FS_COMPLETE]

/-- Between frames: not `BUSY`, `sck` idle, no bit left. -/
theorem FrameCoherent.of_idle {c : CNode} {p : Bool} (hst : c.fsState = FS_IDLE) (hbusy : c.busy = false)
    (hsck : c.sck = p) (hstall : c.stalledC = false) (hbits : c.bitcntC = 0#4) : FrameCoherent c p := by
  constructor <;> simp [hst, hbusy, hsck, hstall, hbits, FS_IDLE, FS_DRIVE, FS_SAMPLE, FS_COMPLETE]

/-- A frame is in progress in every state but `FS_IDLE`. -/
theorem FrameCoherent.in_frame {c : CNode} {p : Bool} (h : FrameCoherent c p) {code : Code} (hst : c.fsState = code)
    (hne : code ≠ FS_IDLE) : c.busy = true ∧ c.rdy = false := by
  have hbusy : c.busy = true := h.busy_iff.mpr (hst ▸ hne)
  exact ⟨hbusy, Bool.eq_false_iff.mpr fun hr => by simp [h.rdy_idle hr] at hbusy⟩

/-- An FSEQ that is not busy is not stalled. -/
theorem FrameCoherent.not_stalled {c : CNode} {p : Bool} (h : FrameCoherent c p) (hbusy : c.busy = false) :
    c.stalledC = false :=
  Bool.eq_false_iff.mpr fun hs => by simp [(h.in_frame (h.stall_state hs) (by decide)).1] at hbusy

/-- A bit count that is not yet done loses one bit and stays in the frame. -/
theorem bitcntC_pred {b : BitVec 4} (h1 : 1 ≤ b.toNat) (h8 : b.toNat ≤ 8) (hne : b - 1#4 ≠ 0#4) :
    1 ≤ (b - 1#4).toNat ∧ (b - 1#4).toNat ≤ 8 := by
  revert b; decide

theorem Move.frameCoherent {s t : State} (m : Move s t) (hfs : fsAssigned s.c.fsState = true)
    (h : FrameCoherent s.c s.cfg.cpol) : FrameCoherent t.c s.cfg.cpol := by
  cases m with
  | idle hst => exact { h with sck_idle := fun _ => rfl }
  | present hst =>
    refine { h with sck_idle := fun hi => ?_ }
    rcases hst with e | e <;> exact absurd (e.symm.trans hi) (by decide)
  | edge hs hst =>
    obtain ⟨hbusy, hrdy⟩ := h.in_frame hst (by decide)
    obtain ⟨_, _, _, e, -⟩ := sampleEdge_c s
    rw [e]
    exact .of_bits (.inr rfl) hbusy hrdy hs (h.bits_left (.inl hst))
  | bit hs hst hb =>
    obtain ⟨hbusy, hrdy⟩ := h.in_frame hst (by decide)
    obtain ⟨h1, h8⟩ := h.bits_left (.inr hst)
    exact .of_bits (.inl rfl) hbusy hrdy hs (bitcntC_pred h1 h8 hb)
  | lastBit hs hst _ =>
    obtain ⟨hbusy, hrdy⟩ := h.in_frame hst (by decide)
    exact .of_complete rfl hbusy hrdy rfl
  | complete hs hst => exact .of_idle rfl rfl rfl hs (h.bits_done (.inr hst))
  | stall hst =>
    obtain ⟨hbusy, hrdy⟩ := h.in_frame hst (by decide)
    exact .of_complete hst hbusy hrdy (h.bits_done (.inr hst))
  | write v =>
    rcases bufw_cases s.c v s.divReload with ⟨hi, _⟩ | ⟨_, _, e⟩ | ⟨_, hbusy, e⟩
    · simp [hfs] at hi
    · rw [fsBufw, mapC_c, e]
      exact h.congr rfl rfl rfl rfl rfl rfl
    · rw [fsBufw, mapC_c, e]
      exact .of_bits (.inl rfl) rfl rfl (h.not_stalled hbusy) ⟨by simp, by simp⟩
  | read => exact { h with rdy_idle := fun hr => nomatch hr }
  | select _ k =>
    rcases assertLine_cases k s with ⟨_, e⟩ | ⟨_, e⟩ <;> rw [e, mapC_c, inFrame_eq] <;>
      exact h.congr rfl rfl rfl rfl rfl rfl
  | deselect _ k =>
    rcases deassertLine_cases k s with ⟨_, e⟩ | ⟨_, e⟩ <;> rw [e, mapC_c, inFrame_eq] <;>
      exact h.congr rfl rfl rfl rfl rfl rfl
  | nextSlot _ => unfold pollNext; split <;> exact h.congr rfl rfl rfl rfl rfl rfl
  | responder k r _ => rwa [setRnode_c]
  | _ => exact h.congr rfl rfl rfl rfl rfl rfl

-- State codes and `SLOT` (R21, R26, R90)

theorem settling_ne_stable : CS_SETTLING ≠ CS_STABLE := by decide

theorem PollJump.assigned {s : State} {code next : Code} (h : PollJump s code next) : pollAssigned next = true := by
  cases h with
  | txdata => split <;> rfl
  | _ => rfl

theorem PollJump.assigned_from {s : State} {code next : Code} (h : PollJump s code next) : pollAssigned code = true := by
  cases h <;> rfl

/-- `CodesLegal` of two states that agree on the registers it reads. -/
theorem CodesLegal.congr {s t : State} (h : CodesLegal s) (hcfg : t.cfg = s.cfg) (hfs : t.c.fsState = s.c.fsState)
    (hcs : t.c.csState = s.c.csState) (hcnt : t.c.settleCnt = s.c.settleCnt) (hp : t.c.pState = s.c.pState)
    (hsmp : t.c.sState = s.c.sState) (hslot : t.c.slot = s.c.slot)
    (hr : ∀ k, respAssigned (t.rnode k).rState = true) : CodesLegal t := by
  obtain ⟨h1, h2, h3, h4, h5, h6, -⟩ := h
  exact ⟨by rwa [hfs], by rwa [hcs], by rwa [hp], by rwa [hsmp], by rwa [hcfg, hslot], by rwa [hcs, hcnt], hr⟩

/-- The slot after one that is not the last is a slot of the machine. -/
theorem hasSlot_succ {cfg : Config} {k : Slot} (h : k.toNat + 1 < cfg.nResp) : cfg.hasSlot (k + 1#1) = true := by
  have hle : ∀ k : Slot, (k + 1#1).toNat ≤ k.toNat + 1 := by decide
  exact decide_eq_true (Nat.lt_of_le_of_lt (hle k) h)

/-- Slot 0 is a slot of every machine that has one. -/
theorem hasSlot_zero {cfg : Config} {k : Slot} (h : cfg.hasSlot k = true) : cfg.hasSlot 0#1 = true :=
  decide_eq_true (Nat.lt_of_le_of_lt (Nat.zero_le _) (of_decide_eq_true h))

theorem Move.codesLegal {s t : State} (m : Move s t) (h : CodesLegal s) : CodesLegal t := by
  have hr (k : Slot) : respAssigned (t.rnode k).rState = true :=
    m.rnode_keeps k (P := fun r => respAssigned r.rState = true) (fun _ mr => mr.keeps_assigned (h.resp k)) (h.resp k)
  cases m with
  | edge _ _ =>
    obtain ⟨_, _, _, e, -⟩ := sampleEdge_c s
    rw [e] at hr ⊢
    exact { h with fs := rfl, resp := hr }
  | bit _ _ _ => exact { h with fs := rfl }
  | lastBit _ _ _ => exact { h with fs := rfl }
  | complete _ _ => exact { h with fs := rfl }
  | write v =>
    rcases bufw_cases s.c v s.divReload with ⟨_, e⟩ | ⟨_, _, e⟩ | ⟨_, _, e⟩ <;> rw [fsBufw, State.mapC, e]
    · exact h.congr rfl rfl rfl rfl rfl rfl rfl h.resp
    · exact h.congr rfl rfl rfl rfl rfl rfl rfl h.resp
    · exact { h with fs := rfl }
  | settleTick hst _ => exact { h with settled := fun hs => absurd (hst.symm.trans hs) settling_ne_stable }
  | settled _ => exact { h with cs := rfl, settled := fun _ => rfl }
  | select _ k =>
    rcases assertLine_cases k s with ⟨_, e⟩ | ⟨_, e⟩ <;> rw [e, State.mapC, inFrame_eq] <;>
      exact h.congr rfl rfl rfl rfl rfl rfl rfl h.resp
  | deselect _ k =>
    rcases deassertLine_cases k s with ⟨_, e⟩ | ⟨_, e⟩ <;> rw [e, State.mapC, inFrame_eq]
    · exact h.congr rfl rfl rfl rfl rfl rfl rfl h.resp
    · exact { h with cs := rfl, settled := fun hs => absurd hs settling_ne_stable }
  | jump _ hj => exact { h with poll := hj.assigned }
  | nextSlot _ =>
    unfold pollNext
    split
    next hn =>
      exact { h with poll := rfl, slot := hasSlot_succ hn }
    next =>
      exact { h with poll := rfl, slot := hasSlot_zero h.slot }
  | responder k r _ => exact h.congr (by simp) (by simp) (by simp) (by simp) (by simp) (by simp) (by simp) hr
  | _ => exact h.congr rfl rfl rfl rfl rfl rfl rfl h.resp

/-- What the invariant asks of the machine's registers is kept by every move. -/
theorem Move.inv {s t : State} (m : Move s t) (h : Inv s) : Inv t := by
  obtain ⟨hx, hf, hc, hb, hl⟩ := h
  have hlegal : NoIllegalC s := ⟨⟨hc.fs, hc.cs, hc.poll, hc.smp⟩, hx⟩
  refine ⟨m.exclusive hx, ?_, m.codesLegal hc, ⟨fun k => ?_, ?_, fun k => ?_⟩, m.configLoaded hl⟩
  · rw [m.cfg_eq]
    exact m.frameCoherent hc.fs hf
  · exact m.rnode_keeps k (P := fun r => r.bitcntR.toNat ≤ 7) (fun _ mr => mr.bits_le (hb.bits k)) (hb.bits k)
  · exact m.faultC_raised.mask_clear hlegal hb.faultC
  · exact m.rnode_keeps k (P := fun r => r.faultR &&& unreachableR = 0#8)
      (fun _ mr => mr.faultR_raised.mask_clear (hc.resp k) (hb.faultR k)) (hb.faultR k)

-- Reset (R250, R252)

/-- Every node holds what a reset loads: its reset values, and some value in each draw-valued register. -/
structure AtReset (s : State) : Prop where
  c : ∃ draw, s.c = CNode.atReset s.cfg draw
  r : ∀ k, ∃ draw, s.rnode k = RNode.atReset s.cfg (s.cfg.slot k) draw

theorem evReset_atReset (s : State) : AtReset (evReset s) where
  c := ⟨fun n => Config.freeByte (s.drawIdx + 0 + n), rfl⟩
  r k := by
    rcases slot_cases k with rfl | rfl
    · exact ⟨fun n => Config.freeByte (s.drawIdx + 6 + n), rfl⟩
    · exact ⟨fun n => Config.freeByte (s.drawIdx + 11 + n), rfl⟩

theorem resetWith_atReset (cfg : Config) : AtReset (State.resetWith cfg) where
  c := ⟨fun _ => 0#8, rfl⟩
  r k := by rcases slot_cases k with rfl | rfl <;> exact ⟨fun _ => 0#8, rfl⟩

/-- What holds of a responder node at its reset values holds of every responder node then. -/
theorem AtReset.rnode {s : State} (h : AtReset s) (k : Slot) {P : RNode → Prop}
    (hP : ∀ draw, P (RNode.atReset s.cfg (s.cfg.slot k) draw)) : P (s.rnode k) := by
  obtain ⟨draw, e⟩ := h.r k
  exact e ▸ hP draw

theorem AtReset.configLoaded {s : State} (h : AtReset s) : ConfigLoaded s := by
  obtain ⟨draw, hc⟩ := h.c
  exact ⟨by rw [hc]; rfl, by rw [hc]; rfl, fun k => h.rnode k (P := fun r => r.ctrlR = _) fun _ => rfl,
    fun k => h.rnode k (P := fun r => r.edgeEn = _) fun _ => rfl,
    fun k => h.rnode k (P := fun r => r.pwmPr = _) fun _ => rfl⟩

theorem AtReset.codesLegal {s : State} (h : AtReset s) (h0 : s.cfg.hasSlot 0#1 = true) : CodesLegal s := by
  obtain ⟨draw, hc⟩ := h.c
  have hr (k : Slot) : respAssigned (s.rnode k).rState = true :=
    h.rnode k (P := fun r => respAssigned r.rState = true) fun _ => rfl
  constructor
  case slot => rw [hc]; exact h0
  case settled => rw [hc]; exact fun _ => rfl
  case resp => exact hr
  all_goals rw [hc]; rfl

theorem AtReset.exclusive {s : State} (h : AtReset s) : Exclusive s := by
  obtain ⟨draw, hc⟩ := h.c
  exact fun hsel => absurd hsel.1 (by simp [State.selected, hc, CNode.atReset, csLine, lineMask])

/-- Settles O25: both lines are high after a reset, and every move keeps mutual exclusion. -/
theorem stepsKeepAtMostOneLineLow : Obligations.StepsKeepAtMostOneLineLow := by
  unfold Obligations.StepsKeepAtMostOneLineLow
  exact fun s t hs h => step_keeps (fun _ _ _ _ hu => hu) (fun _ _ hu m => m.exclusive hu)
    (fun u _ => (evReset_atReset u).exclusive) hs h

/-- Registers as a reset loads them meet the invariant where slot 0 exists, whatever the draws. -/
theorem AtReset.inv {s : State} (h : AtReset s) (h0 : s.cfg.hasSlot 0#1 = true) : Inv s := by
  obtain ⟨draw, hc⟩ := h.c
  refine ⟨h.exclusive, ?_, h.codesLegal h0, ⟨fun k => ?_, ?_, fun k => ?_⟩, h.configLoaded⟩
  · rw [hc]
    exact .of_idle rfl rfl rfl rfl rfl
  · exact h.rnode k (P := fun r => r.bitcntR.toNat ≤ 7) fun _ => by simp [RNode.atReset]
  · simp [hc, CNode.atReset]
  · exact h.rnode k (P := fun r => r.faultR &&& 0xF4#8 = 0#8) fun _ => by simp [RNode.atReset]

/-- Settles O57: the invariant is kept move by move, and a reset establishes it. -/
theorem stepsKeepTheInvariant : Obligations.StepsKeepTheInvariant := by
  unfold Obligations.StepsKeepTheInvariant
  intro s t hs h
  refine step_keeps (fun _ _ _ _ hu => ?_) (fun _ _ hu m => m.inv hu) (fun u hu => ?_) hs h
  · obtain ⟨hx, hf, hc, hb, hl⟩ := hu
    exact ⟨hx, hf, { hc with }, { hb with }, { hl with }⟩
  · exact (evReset_atReset u).inv (hasSlot_zero hu.codes.slot)

-- The checks on a configuration (R253)

/-- The checks of R253, written out. -/
theorem config_valid_iff {cfg : Config} : cfg.valid = true ↔
    (cfg.nResp = 1 ∨ cfg.nResp = 2) ∧ 1 ≤ cfg.halfBitTicks ∧ 2 * cfg.halfBitTicks ≤ cfg.settleTicks
      ∧ (∀ k : Slot, k.toNat < cfg.nResp → (cfg.slot k).cpol = cfg.cpol ∧ (cfg.slot k).cpha = cfg.cpha
          ∧ (cfg.slot k).outMin ≤ 1023 ∧ (cfg.slot k).outMax ≤ 1023)
      ∧ cfg.inMin = 0 ∧ cfg.inMax = 255 := by
  have hslots (p : Slot → Prop) : (∀ k, p k) ↔ p 0#1 ∧ p 1#1 :=
    ⟨fun h => ⟨h _, h _⟩, fun h k => by rcases slot_cases k with rfl | rfl <;> simp [h]⟩
  simp only [Config.valid, Config.slotValid, hslots, Config.slot, Bool.and_eq_true, Bool.or_eq_true, beq_iff_eq,
    decide_eq_true_eq, and_assoc]
  constructor
  · rintro ⟨hn | hn, h⟩ <;> simp_all
  · rintro ⟨hn | hn, h⟩ <;> simp_all

theorem config_ok_iff {cfg : Config} :
    cfg.ok = true ↔ cfg.valid = true ∧ (cfg.time = .tickAccurate → cfg.fits = true) := by
  cases ht : cfg.time <;> simp [Config.ok, ht]

/-- A configuration that has a run has slot 0. -/
theorem hasSlot_zero_of_ok {cfg : Config} (h : cfg.ok = true) : cfg.hasSlot 0#1 = true := by
  obtain ⟨hn, -⟩ := config_valid_iff.mp (config_ok_iff.mp h).1
  exact decide_eq_true (by rcases hn with hn | hn <;> simp [hn])

/-- Settles O58: the registers of `State.resetWith` are those a reset loads, its draws 0. -/
theorem resetMeetsTheInvariant : Obligations.ResetMeetsTheInvariant := by
  unfold Obligations.ResetMeetsTheInvariant
  have hinv : ∀ cfg : Config, cfg.ok = true → Inv (State.resetWith cfg) := fun cfg h =>
    (resetWith_atReset cfg).inv (hasSlot_zero_of_ok h)
  exact ⟨hinv, hinv _ (by decide), by decide, by decide⟩

/-- Settles O56: no move writes the configuration or a register loaded from it; a reset loads them from it. -/
theorem stepsKeepTheConfiguration : Obligations.StepsKeepTheConfiguration := by
  unfold Obligations.StepsKeepTheConfiguration
  intro s t h
  constructor
  · exact step_keeps (P := fun u => u.cfg = s.cfg) (fun _ _ _ _ hu => hu) (fun _ _ hu m => m.cfg_eq.trans hu)
      (fun _ hu => hu) rfl h
  · exact fun hl => step_keeps (fun _ _ _ _ hu => { hu with }) (fun _ _ hu m => m.configLoaded hu)
      (fun u _ => (evReset_atReset u).configLoaded) hl h

-- Stuck units (R90, R106, R226)

/-- A move changes a state register of `C` from an assigned code alone, and `SAMPLED` beside one. -/
theorem Move.codes_stuck {s t : State} (m : Move s t) :
    (fsAssigned s.c.fsState = false → t.c.fsState = s.c.fsState)
      ∧ (csAssigned s.c.csState = false → t.c.csState = s.c.csState)
      ∧ (pollAssigned s.c.pState = false → t.c.pState = s.c.pState)
      ∧ t.c.sState = s.c.sState ∧ (smpAssigned s.c.sState = false → t.c.sampled = s.c.sampled) := by
  cases m with
  | edge _ h =>
    obtain ⟨_, _, _, e, -⟩ := sampleEdge_c s
    rw [e]
    exact ⟨by simp [h, fsAssigned], fun _ => rfl, fun _ => rfl, rfl, fun _ => rfl⟩
  | bit _ h _ => exact ⟨by simp [h, fsAssigned], fun _ => rfl, fun _ => rfl, rfl, fun _ => rfl⟩
  | lastBit _ h _ => exact ⟨by simp [h, fsAssigned], fun _ => rfl, fun _ => rfl, rfl, fun _ => rfl⟩
  | complete _ h => exact ⟨by simp [h, fsAssigned], fun _ => rfl, fun _ => rfl, rfl, fun _ => rfl⟩
  | write v =>
    rcases bufw_cases s.c v s.divReload with ⟨_, e⟩ | ⟨_, _, e⟩ | ⟨h, _, e⟩ <;> rw [fsBufw, mapC_c, e]
    · exact ⟨fun _ => rfl, fun _ => rfl, fun _ => rfl, rfl, fun _ => rfl⟩
    · exact ⟨fun _ => rfl, fun _ => rfl, fun _ => rfl, rfl, fun _ => rfl⟩
    · exact ⟨by simp [h], fun _ => rfl, fun _ => rfl, rfl, fun _ => rfl⟩
  | settled h => exact ⟨fun _ => rfl, by simp [h, csAssigned], fun _ => rfl, rfl, fun _ => rfl⟩
  | select _ k =>
    rcases assertLine_cases k s with ⟨_, e⟩ | ⟨_, e⟩ <;> rw [e, mapC_c, inFrame_eq] <;>
      exact ⟨fun _ => rfl, fun _ => rfl, fun _ => rfl, rfl, fun _ => rfl⟩
  | deselect h k =>
    rcases deassertLine_cases k s with ⟨_, e⟩ | ⟨_, e⟩ <;> rw [e, mapC_c, inFrame_eq]
    · exact ⟨fun _ => rfl, fun _ => rfl, fun _ => rfl, rfl, fun _ => rfl⟩
    · exact ⟨fun _ => rfl, by simp [h, csAssigned], fun _ => rfl, rfl, fun _ => rfl⟩
  | jump h hj =>
    exact ⟨fun _ => rfl, fun _ => rfl, by simp [h, hj.assigned_from], rfl, fun _ => rfl⟩
  | nextSlot h =>
    unfold pollNext
    split <;> exact ⟨fun _ => rfl, fun _ => rfl, by simp [h, pollAssigned], rfl, fun _ => rfl⟩
  | sample h => exact ⟨fun _ => rfl, fun _ => rfl, fun _ => rfl, rfl, by simp [h]⟩
  | responder k r _ => simp
  | _ => exact ⟨fun _ => rfl, fun _ => rfl, fun _ => rfl, rfl, fun _ => rfl⟩

/-- A move of a responder leaves what only RESP writes beside an unassigned code. -/
structure RStuck (r r' : RNode) : Prop where
  rState : r'.rState = r.rState
  counter : r'.counter = r.counter
  ledR : r'.ledR = r.ledR
  dutyH : r'.dutyH = r.dutyH
  dutyL : r'.dutyL = r.dutyL
  pinLast : r'.pinLast = r.pinLast
  edgeF : r.edgeF = false → r'.edgeF = false

theorem RStuck.refl (r : RNode) : RStuck r r := ⟨rfl, rfl, rfl, rfl, rfl, rfl, id⟩

theorem RStuck.trans {r r' r'' : RNode} (h : RStuck r r') (h' : RStuck r' r'') : RStuck r r'' :=
  ⟨h'.rState.trans h.rState, h'.counter.trans h.counter, h'.ledR.trans h.ledR, h'.dutyH.trans h.dutyH,
    h'.dutyL.trans h.dutyL, h'.pinLast.trans h.pinLast, h'.edgeF ∘ h.edgeF⟩

theorem complete_stuck (r : RNode) : RStuck r r.complete := by
  rcases complete_cases r with ⟨_, e⟩ | ⟨_, e⟩ <;> rw [e] <;> exact ⟨rfl, rfl, rfl, rfl, rfl, rfl, id⟩

theorem RMove.stuck {cfg : Config} {sc : SlotConfig} {csn : Bool} {r r' : RNode} (m : RMove cfg sc csn r r')
    (h : respAssigned r.rState = false) : RStuck r r' := by
  cases m with
  | shift b =>
    rcases shift_cases r b with ⟨_, e⟩ | ⟨_, e⟩ <;> rw [e]
    · exact RStuck.trans (r' := { r with srR := shiftIn r.srR b, bitcntR := 0#4 })
        ⟨rfl, rfl, rfl, rfl, rfl, rfl, id⟩ (complete_stuck _)
    · exact ⟨rfl, rfl, rfl, rfl, rfl, rfl, id⟩
  | complete => exact complete_stuck r
  | csedge =>
    unfold RNode.csedge; repeat' split
    all_goals exact ⟨rfl, rfl, rfl, rfl, rfl, rfl, id⟩
  | bufw v => rcases rbufw_cases r v with ⟨_, e⟩ | ⟨_, e⟩ <;> rw [e] <;> exact ⟨rfl, rfl, rfl, rfl, rfl, rfl, id⟩
  | irqclr m => exact ⟨rfl, rfl, rfl, rfl, rfl, rfl, fun hf => by simp [RNode.irqclr, hf]⟩
  | setPin p l => cases p <;> exact ⟨rfl, rfl, rfl, rfl, rfl, rfl, id⟩
  | enter hs => simp [hs, respAssigned] at h
  | leave hs => simp [hs, respAssigned] at h
  | illegal _ => exact ⟨rfl, rfl, rfl, rfl, rfl, rfl, id⟩
  | bufr => exact ⟨rfl, rfl, rfl, rfl, rfl, rfl, id⟩
  | _ => exact absurd ‹respAssigned r.rState = true› (by simp [h])

/-- FSEQ stalled with a frame in flight. -/
structure StalledIn (code : Code) (s : State) : Prop where
  stalled : s.c.stalledC = true
  busy : s.c.busy = true
  state : s.c.fsState = code

/-- A move leaves a stalled FSEQ stalled in its frame, and does not set `RDY`. -/
theorem Move.stalled {s t : State} {code : Code} (m : Move s t) (h : StalledIn code s) :
    StalledIn code t ∧ (s.c.rdy = false → t.c.rdy = false) := by
  obtain ⟨hs, hb, hc⟩ := h
  cases m with
  | edge hn _ => simp [hs] at hn
  | bit hn _ _ => simp [hs] at hn
  | lastBit hn _ _ => simp [hs] at hn
  | complete hn _ => simp [hs] at hn
  | stall _ => exact ⟨⟨rfl, hb, hc⟩, id⟩
  | write v =>
    rcases bufw_cases s.c v s.divReload with ⟨_, e⟩ | ⟨_, _, e⟩ | ⟨_, hn, e⟩
    · rw [fsBufw, State.mapC, e]; exact ⟨⟨hs, hb, hc⟩, id⟩
    · rw [fsBufw, State.mapC, e]; exact ⟨⟨hs, hb, hc⟩, id⟩
    · simp [hb] at hn
  | read => exact ⟨⟨hs, hb, hc⟩, fun _ => rfl⟩
  | select _ k =>
    rcases assertLine_cases k s with ⟨_, e⟩ | ⟨_, e⟩ <;> rw [e, State.mapC, inFrame_eq] <;> exact ⟨⟨hs, hb, hc⟩, id⟩
  | deselect _ k =>
    rcases deassertLine_cases k s with ⟨_, e⟩ | ⟨_, e⟩ <;> rw [e, State.mapC, inFrame_eq] <;> exact ⟨⟨hs, hb, hc⟩, id⟩
  | nextSlot _ => unfold pollNext; split <;> exact ⟨⟨hs, hb, hc⟩, id⟩
  | responder k r _ => exact ⟨⟨by simpa using hs, by simpa using hb, by simpa using hc⟩, by simp⟩
  | _ => exact ⟨⟨hs, hb, hc⟩, id⟩

/-- Settles O53: each register, kept by every move beside the unassigned code, or the stall, that the move leaves. -/
theorem stuckUnitsStayStuckUntilReset : Obligations.StuckUnitsStayStuckUntilReset := by
  unfold Obligations.StuckUnitsStayStuckUntilReset
  intro i s t h hi
  have keep {P : State → Prop} (hP : ∀ u v, P u → Move u v → P v) (hs : P s) : P t := (exec_moves h hi).keep hP hs
  refine ⟨fun hx => ?_, fun hx => ?_, fun hx => ?_, fun hx => ?_, fun k hx => ?_, fun hs hb => ?_⟩
  · exact keep (P := fun u => u.c.fsState = s.c.fsState) (fun u v e m => (m.codes_stuck.1 (e ▸ hx)).trans e) rfl
  · exact keep (P := fun u => u.c.csState = s.c.csState) (fun u v e m => (m.codes_stuck.2.1 (e ▸ hx)).trans e) rfl
  · exact keep (P := fun u => u.c.pState = s.c.pState) (fun u v e m => (m.codes_stuck.2.2.1 (e ▸ hx)).trans e) rfl
  · refine keep (P := fun u => u.c.sState = s.c.sState ∧ u.c.sampled = s.c.sampled) (fun u v hu m => ?_) ⟨rfl, rfl⟩
    obtain ⟨-, -, -, hstate, hsampled⟩ := m.codes_stuck
    exact ⟨hstate.trans hu.1, (hsampled (hu.1 ▸ hx)).trans hu.2⟩
  · obtain ⟨h1, h2, h3, h4, h5, h6, h7⟩ := keep (P := fun u => RStuck (s.rnode k) (u.rnode k)) (fun u v hu m =>
      m.rnode_keeps k (P := fun r => RStuck (s.rnode k) r)
        (fun _ mr => hu.trans (mr.stuck (by rw [hu.rState]; exact hx))) hu) (.refl _)
    exact ⟨h1, h2, h3, h4, h5, h6, h7⟩
  · obtain ⟨⟨h1, h2, h3⟩, h4⟩ := keep
      (P := fun u => StalledIn s.c.fsState u ∧ (s.c.rdy = false → u.c.rdy = false))
      (fun u v hu m => ⟨(m.stalled hu.1).1, (m.stalled hu.1).2 ∘ hu.2⟩) ⟨⟨hs, hb, rfl⟩, id⟩
    exact ⟨h1, h2, h3, h4⟩

end Machine
end Sys2Proof
end

section
/-! Operation words (spec/30_encoding.md R80–R93): encoding and decoding, and what a step does with a pending word. -/

namespace Sys2Proof
namespace Machine

-- The decoder, unit by unit (R81)

/-- The table of words of one unit. -/
def unitDecode (u : OpUnit) (code : Code) (p : Payload) : Option Instr :=
  match u with
  | .fseq => decodeFseq code p
  | .rshift => decodeRshift code p
  | .csmux => decodeCsmux code
  | .poll => decodePoll code
  | .resp => decodeResp code p
  | .sampler => decodeSampler code
  | .event => decodeEvent code p

/-- The unit field of a word chooses the table in which its code is looked up (R81, R93). -/
theorem decode_of_unitField {w : Byte} {u : OpUnit} (p : Payload) (h : unitField w = u.field) :
    decode w p = unitDecode u (codeField w) p := by
  cases u <;> simp [decode, h, OpUnit.field, unitDecode]

/-- The unit field of an operation's word is that of its unit. -/
theorem unitField_encodeWord (i : Instr) : unitField (encodeWord i) = i.unit.field := by
  cases i with
  | csAssert k => exact Laws.EncodedUnit.csAssert k
  | csDeassert k => exact Laws.EncodedUnit.csDeassert k
  | _ => simp [unitField, encodeWord, Instr.unit, OpUnit.field]

/-- In the table of its unit, the code of an operation's word gives the operation, with the operands of its payload; the two
select words carry their slot in bit 0 of the code. -/
theorem unitDecode_encode (i : Instr) :
    unitDecode i.unit (codeField (encodeWord i)) (encodePayload i) = some i := by
  cases i with
  | csAssert k => revert k; decide
  | csDeassert k => revert k; decide
  | _ => simp [Instr.unit, unitDecode, codeField, encodeWord, encodePayload, decodeFseq, decodeRshift, decodeCsmux,
      decodePoll, decodeResp, decodeSampler, decodeEvent]

/-- Settles O2: the unit field of the word chooses the table of the operation's unit, the code the operation in it. -/
theorem decodeOfEncodeIsIdentity : Obligations.DecodeOfEncodeIsIdentity := by
  unfold Obligations.DecodeOfEncodeIsIdentity
  exact fun i => (decode_of_unitField _ (unitField_encodeWord i)).trans (unitDecode_encode i)

/-- Settles O1: each conjunct is one evaluation of the decoder on a closed word. -/
theorem writtenWordsDecode : Obligations.WrittenWordsDecode := by
  unfold Obligations.WrittenWordsDecode
  decide

-- Which words decode does not depend on the payload

/-- The word of the operation that a word decodes to. -/
def decodedWord (w : Byte) (p : Payload) : Option Byte := (decode w p).map encodeWord

theorem decodedWord_payload (w : Byte) (p : Payload) : decodedWord w p = decodedWord w Payload.zero := by
  simp only [decodedWord, decode, decodeFseq, decodeRshift, decodeResp, decodeEvent, apply_ite (Option.map encodeWord),
    Option.map_some, Option.map_none, encodeWord]

/-- The listed words of R83–R89. -/
abbrev listedWords : List Nat :=
  [0x00, 0x01, 0x02, 0x03, 0x08, 0x09, 0x20, 0x21, 0x22, 0x28, 0x29, 0x2A, 0x40, 0x41, 0x48, 0x49, 0x4C, 0x4D, 0x50,
    0x60, 0x61, 0x62, 0x63, 0x64, 0x65, 0x66, 0x67, 0x68, 0x69, 0x6A, 0x6B, 0x6C, 0x6D, 0x6E, 0x80, 0x81, 0x88, 0x89,
    0x8A, 0x90, 0x91, 0x98, 0xA0, 0xA8, 0xA9, 0xC0, 0xC1, 0xC2, 0xC3, 0xC4]

/-- A listed word decodes to an operation with that word, and no other word decodes. -/
theorem decodedWord_zero : ∀ w : Byte,
    decodedWord w Payload.zero = if w.toNat ∈ listedWords then some w else none := by
  decide

theorem decodedWord_eq (w : Byte) (p : Payload) :
    decodedWord w p = if w.toNat ∈ listedWords then some w else none :=
  (decodedWord_payload w p).trans (decodedWord_zero w)

/-- The operation a word decodes to has that word. -/
theorem encodeWord_of_decode {w : Byte} {p : Payload} {i : Instr} (h : decode w p = some i) : encodeWord i = w := by
  have e := decodedWord_eq w p
  rw [decodedWord, h, Option.map_some] at e
  split at e
  · exact Option.some.inj e
  · cases e

/-- Settles O3: the listed words by evaluation of the decoder on all 256 words, the refusal by the step's rule for a pending
item. -/
theorem listedWordsAreExactlyThoseThatDecode : Obligations.ListedWordsAreExactlyThoseThatDecode := by
  unfold Obligations.ListedWordsAreExactlyThoseThatDecode
  refine ⟨fun w p => ?_, fun w p i => encodeWord_of_decode, fun s w p rest hok hd hs hw => ?_⟩
  · have e := congrArg Option.isSome (decodedWord_eq w p)
    rw [decodedWord, Option.isSome_map] at e
    rw [e]
    split <;> simp_all
  · rw [step_item hok hd hs]
    simp only [runItem, hw]

/-- Settles O4: bit 0 of the word by evaluation, the refusal because the slot does not exist. -/
theorem selectWordsCarryTheirSlotInBitZero : Obligations.SelectWordsCarryTheirSlotInBitZero := by
  unfold Obligations.SelectWordsCarryTheirSlotInBitZero
  refine ⟨fun k p => ?_, fun k s h => ?_⟩
  · constructor
    · exact (decode_of_unitField p (unitField_encodeWord (.csAssert k))).trans (unitDecode_encode (.csAssert k))
    · exact (decode_of_unitField p (unitField_encodeWord (.csDeassert k))).trans (unitDecode_encode (.csDeassert k))
  · have hk : s.cfg.hasSlot k = false := decide_eq_false (Nat.not_lt.mpr h)
    exact ⟨onSlot_refused _ hk, onSlot_refused _ hk⟩

end Machine
end Sys2Proof
end

section
/-! Steps (spec/30_encoding.md R94, R95, spec/70_reset_and_hazards.md R253): which outcome an operation has, what a waiting
operation does, and what a step does with an owed operation, a pending item or an invalid configuration. -/

namespace Sys2Proof
namespace Machine

-- The outcome of an operation

/-- An operation that names no slot answers a next state; one that names a slot is an operation of that slot. -/
theorem exec_shape (i : Instr) (s : State) :
    (i.slot? = none ∧ ∃ t, exec i s = .next t) ∨ ∃ k f, i.slot? = some k ∧ exec i s = onSlot k s f := by
  cases i with
  | rsShift k _ => exact .inr ⟨k, _, rfl, by rw [exec, execRsShift]⟩
  | rsCsedge k => exact .inr ⟨k, _, rfl, by rw [exec, execRsCsedge]⟩
  | rsComplete k => exact .inr ⟨k, _, rfl, by rw [exec, execRsComplete]⟩
  | rsBufr k => exact .inr ⟨k, _, rfl, by rw [exec, execRsBufr]⟩
  | rsBufw k _ => exact .inr ⟨k, _, rfl, by rw [exec, execRsBufw]⟩
  | rsIrqclr k _ => exact .inr ⟨k, _, rfl, by rw [exec, execRsIrqclr]⟩
  | csAssert k | csDeassert k => exact .inr ⟨k, _, rfl, rfl⟩
  | respIdle k | respService k | respHEdge k | respHRxDisplay k | respHRxPwm k | respLinmap k _ | respPwmsplit k _
  | respPindet k => exact .inr ⟨k, _, rfl, rfl⟩
  | evPin k _ _ => exact .inr ⟨k, _, rfl, by rw [exec, execEvPin]⟩
  | evTick node =>
    cases node with
    | c => exact .inl ⟨rfl, _, rfl⟩
    | r k => exact .inr ⟨k, _, rfl, rfl⟩
  | _ => exact .inl ⟨rfl, _, rfl⟩

theorem exec_of_wellFormed {i : Instr} {s : State} (h : i.wellFormed s.cfg = true) : ∃ t, exec i s = .next t := by
  rcases exec_shape i s with ⟨_, ht⟩ | ⟨k, f, hk, e⟩
  · exact ht
  · rw [Instr.wellFormed, hk] at h
    exact ⟨f s, e.trans (onSlot_next f h)⟩

theorem exec_of_not_wellFormed {i : Instr} {s : State} (h : i.wellFormed s.cfg = false) :
    exec i s = .refused .absentSlot := by
  rcases exec_shape i s with ⟨hn, _⟩ | ⟨k, f, hk, e⟩
  · simp [Instr.wellFormed, hn] at h
  · rw [Instr.wellFormed, hk] at h
    exact e.trans (onSlot_refused f h)

/-- Settles O7: an operation that names a slot is run through `onSlot`, and every other answers a next state. -/
theorem wellFormedOperationsAnswerANextState : Obligations.WellFormedOperationsAnswerANextState := by
  unfold Obligations.WellFormedOperationsAnswerANextState
  exact fun i s => ⟨exec_of_wellFormed, exec_of_not_wellFormed⟩

-- An operation that waits holds (R10)

theorem pollAt_waits {code : Code} {c : Bool} {f : State → State} {s : State}
    (h : (s.c.pState == code && !c) = true) : pollAt code (pollWhen c f) s = s := by
  simp only [Bool.and_eq_true, beq_iff_eq, Bool.not_eq_true'] at h
  rw [pollAt_of_state _ h.1, h.2]
  rfl

theorem exec_of_waits {i : Instr} {s : State} (h : s.waits i = true) (hw : i.wellFormed s.cfg = true) :
    exec i s = .next s := by
  have hstable : s.stable = false → s.c.csState ≠ CS_STABLE := by simp [State.stable]
  cases i with
  | csSettling =>
    simp only [State.waits, Bool.and_eq_true, Bool.not_eq_true', beq_iff_eq] at h
    refine congrArg Host.Outcome.next ((if_pos h.2).trans ?_)
    simp [csSettling, h.1]
  | csAssert k =>
    exact (exec_csAssert hw).trans (congrArg _ (csAssert_waits (hstable (by simpa [State.waits] using h))))
  | csDeassert k =>
    exact (exec_csDeassert hw).trans (congrArg _ (csDeassert_waits (hstable (by simpa [State.waits] using h))))
  | pollGuard =>
    rw [State.waits, Bool.and_comm] at h
    exact congrArg Host.Outcome.next (pollAt_waits h)
  | pollExcl => exact congrArg Host.Outcome.next (pollAt_waits h)
  | pollSelect => exact congrArg Host.Outcome.next (pollAt_waits h)
  | pollWaitdata => exact congrArg Host.Outcome.next (pollAt_waits h)
  | pollDeselect => exact congrArg Host.Outcome.next (pollAt_waits h)
  | pollSettle => exact congrArg Host.Outcome.next (pollAt_waits h)
  | pollReselect => exact congrArg Host.Outcome.next (pollAt_waits h)
  | pollWaitreply => exact congrArg Host.Outcome.next (pollAt_waits h)
  | pollSkip => exact congrArg Host.Outcome.next (pollAt_waits h)
  | respIdle k =>
    simp only [State.waits, Bool.and_eq_true, Bool.not_eq_true', beq_iff_eq] at h
    rw [exec_respIdle hw h.1, RNode.idle, h.2]
    simp
  | smpIdle =>
    simp only [State.waits, Bool.and_eq_true, Bool.not_eq_true', beq_iff_eq] at h
    refine congrArg Host.Outcome.next ((if_pos h.1).trans ?_)
    simp [smpIdle, h.2]
  | _ => cases h

-- A step

theorem freeStep_next (allowed : Instr → Bool) (s : State) : ∃ t, freeStep allowed s = .next t := by
  unfold freeStep
  split
  next h => exact exec_of_wellFormed (Bool.and_eq_true _ _ ▸ h).2
  next => exact ⟨_, rfl⟩

/-- A free step takes a move that `allowed` lets through, or none, and leaves the items. -/
theorem freeStep_items {allowed : Instr → Bool} {s t : State} (h : freeStep allowed s = .next t) :
    t.script = s.script ∧ t.owed = s.owed ∧
      (t = s.drew 1 ∨ ∃ i, allowed i = true ∧ exec i (s.drew 1) = .next t) := by
  rcases freeStep_cases h with ⟨ha, _, he⟩ | rfl
  · obtain ⟨hscript, howed, -⟩ := exec_items he
    exact ⟨hscript, howed, .inr ⟨_, ha, he⟩⟩
  · exact ⟨rfl, rfl, .inl rfl⟩

/-- Settles O5, by what the step takes: a pending word, run or owed; an owed operation that is due; a `RUN` line, done or
not; a word listed for what happens inside another step. -/
theorem stepRunsTheDecodedOperation : Obligations.StepRunsTheDecodedOperation := by
  unfold Obligations.StepRunsTheDecodedOperation
  intro s hok
  refine ⟨fun w p rest i hd hs hi => ?_, fun before after i ho hb hi => ?_, fun fsm code rest hd hf hs => ?_,
    fun w rest i hd hs hi hw => ?_⟩
  · rw [step_item hok hd hs]
    simp only [runItem, hi]
    refine ⟨fun hw => ?_, fun hw hwf => ?_⟩
    · simp [State.owing, hw]
    · have howing : s.owing i = s.owed ++ [i] := if_pos hw
      rw [howing]
      exact exec_of_waits hw hwf
  · exact step_due hok ho (List.all_eq_true.mpr hb) hi
  · rw [step_item hok hd hs]
    simp only [runItem, runUntil, hf, if_true]
    refine ⟨fun hc => if_pos hc, fun hc => ?_⟩
    rw [if_neg hc]
    obtain ⟨t, ht⟩ := freeStep_next (runMove s.cfg.time fsm.node) s
    obtain ⟨hscript, howed, hmove⟩ := freeStep_items ht
    refine ⟨t, ht, hscript, howed, hmove.imp id fun ⟨i, hi, he⟩ => ⟨i, ?_, ?_, he⟩⟩ <;>
      simp_all [runMove]
  · rw [step_item hok hd hs]
    simp only [runItem, hi, hw, if_true]

-- The configuration (R253)

theorem exec_ne_invalidConfig (i : Instr) (s : State) : exec i s ≠ .refused .invalidConfig := by
  cases h : i.wellFormed s.cfg
  · rw [exec_of_not_wellFormed h]; nofun
  · obtain ⟨t, ht⟩ := exec_of_wellFormed h
    rw [ht]; nofun

/-- A step of a configuration that has a run is not refused as invalid, whatever it takes. -/
theorem nextStep_ne_invalidConfig (s : State) : nextStep s ≠ .refused .invalidConfig := by
  have hfree (allowed : Instr → Bool) : freeStep allowed s ≠ .refused .invalidConfig := by
    obtain ⟨t, ht⟩ := freeStep_next allowed s
    rw [ht]; nofun
  unfold nextStep
  split
  · exact exec_ne_invalidConfig _ _
  split
  · exact hfree _
  next item rest _ =>
    cases item with
    | op w p => unfold runItem; dsimp only; split; exacts [exec_ne_invalidConfig _ _, nofun]
    | invoked w =>
      unfold runItem; dsimp only; repeat' split
      all_goals nofun
    | run fsm code =>
      unfold runItem runUntil; dsimp only; repeat' split
      exacts [nofun, hfree _, nofun]
    | regRead node idx =>
      unfold runItem observe; dsimp only; repeat' split
      all_goals nofun
    | regWrite node idx v => unfold runItem; nofun

/-- Settles O6: `step` asks `Config.ok`, which is the checks of R253 and, in a tick model, that the counts fit. -/
theorem configurationChecksDecideWhetherAStepRuns : Obligations.ConfigurationChecksDecideWhetherAStepRuns := by
  unfold Obligations.ConfigurationChecksDecideWhetherAStepRuns
  refine fun s => ⟨fun h => if_neg fun hok => h (config_valid_iff.mp (config_ok_iff.mp hok).1), fun hv hf => ?_⟩
  rw [step, if_pos (config_ok_iff.mpr ⟨hv, hf⟩)]
  exact nextStep_ne_invalidConfig s

end Machine
end Sys2Proof
end

section
/-! The observation interface and the register maps (spec/10_state.md R30, R34, spec/20_memory.md R61, R62, R65). -/

namespace Sys2Proof
namespace Machine

-- Reads and writes from outside (R62, R65)

theorem afterRegRead_other (s : State) (node : Node) {idx : Byte} (h : idx ≠ 0x00#8) : s.afterRegRead node idx = s := by
  cases node <;> exact if_neg h

/-- A reserved index is 0x0C to 0x0E, or 0x10 and above. -/
theorem reserved_cases {n : Nat} (h : (0x0C ≤ n ∧ n ≤ 0x0E) ∨ 0x10 ≤ n) :
    n = 0x0C ∨ n = 0x0D ∨ n = 0x0E ∨ ∃ m, n = m + 0x10 := by
  rcases h with h | h
  · omega
  · exact .inr (.inr (.inr ⟨n - 0x10, by omega⟩))

/-- A reserved index reads 0 in either node (R61). -/
theorem reserved_reads_zero (s : State) (k : Slot) {idx : Byte}
    (h : (0x0C ≤ idx.toNat ∧ idx.toNat ≤ 0x0E) ∨ 0x10 ≤ idx.toNat) : s.regC idx = 0#8 ∧ s.regR k idx = 0#8 := by
  unfold State.regC State.regR
  rcases reserved_cases h with e | e | e | ⟨m, e⟩ <;> rw [e] <;> exact ⟨rfl, rfl⟩

section
variable {s : State} {rest : List ScriptItem} (hok : s.cfg.ok = true) (hd : s.noneDue = true)
include hok hd

/-- A pending read of `C` is the observation of it. -/
theorem step_regRead_c {idx : Byte} (hs : s.script = .regRead .c idx :: rest) :
    step s = .next { ({ s with script := rest } : State).afterRegRead .c idx with
      result := (s.regC idx).setWidth 10 } :=
  step_item hok hd hs

/-- A pending read of a responder that exists is the observation of it. -/
theorem step_regRead_r {k : Slot} {idx : Byte} (hk : s.cfg.hasSlot k = true) (hs : s.script = .regRead (.r k) idx :: rest) :
    step s = .next { ({ s with script := rest } : State).afterRegRead (.r k) idx with
      result := (s.regR k idx).setWidth 10 } :=
  (step_item hok hd hs).trans (if_pos hk)

end

/-- Settles O8, by the node and the index of the access. -/
theorem observationReadsAndRefusesWrites : Obligations.ObservationReadsAndRefusesWrites := by
  unfold Obligations.ObservationReadsAndRefusesWrites
  intro s rest hok hd
  refine ⟨fun hs => ?_, fun k hk hs => ?_, fun idx hi hs => ?_, fun k idx hk hi hs => ?_, fun k idx hk hs => ?_,
    fun idx hi => ⟨(reserved_reads_zero s 0#1 hi).1, fun k => (reserved_reads_zero s k hi).2⟩, fun node idx v hs => ?_⟩
  · exact step_regRead_c hok hd hs
  · rw [step_regRead_r hok hd hk hs]
    rcases slot_cases k with rfl | rfl <;> rfl
  · rw [step_regRead_c hok hd hs, afterRegRead_other _ _ hi]
  · rw [step_regRead_r hok hd hk hs, afterRegRead_other _ _ hi]
  · exact (step_item hok hd hs).trans (if_neg (by simp [hk]))
  · exact step_item hok hd hs

-- Status bytes (R30, R34, R38)

/-- A flag stands in the bit it is shifted to, and nothing else does. -/
theorem flagBit_getLsbD (b : Bool) (n : Nat) : (flagBit b).getLsbD n = (n == 0 && b) := by
  cases n <;> simp [flagBit]

theorem flagBit_shiftLeft_getLsbD (b : Bool) {i : Nat} (n : Nat) (hi : i < 8) :
    (flagBit b <<< i).getLsbD n = (n == i && b) := by
  rw [BitVec.getLsbD_shiftLeft, flagBit_getLsbD]
  rcases Nat.lt_trichotomy n i with h | h | h
  · simp [h, Nat.ne_of_lt h]
  · simp [h, hi]
  · have hn : (n - i == 0) = false ∧ (n == i) = false := by simp only [beq_eq_false_iff_ne]; omega
    simp [hn]

/-- `PINS` as a status byte: `inc_n` in bit 0, `dec_n` in bit 1. -/
theorem pins_eq_flags (r : RNode) : 0b000000#6 ++ r.pins = flagBit r.incN ||| flagBit r.decN <<< 1 := by
  unfold RNode.pins
  cases r.incN <;> cases r.decN <;> decide

/-- `CS_C` of one responder: bit 1 is no line and reads 1. -/
theorem csC_one {s : State} (h : s.cfg.nResp = 1) : s.csC = 0b1111111#7 ++ s.c.csN.extractLsb' 0 1 := by
  have hbits : ∀ n : BitVec 2, 0b111111#6 ++ (n ||| 0b10#2) = 0b1111111#7 ++ n.extractLsb' 0 1 := by decide
  have hk : s.cfg.hasSlot 1#1 = false := by simp [Config.hasSlot, h]
  simpa [State.csC, hk] using hbits s.c.csN

theorem csC_two {s : State} (h : s.cfg.nResp = 2) : s.csC = 0b111111#6 ++ s.c.csN := by
  have hk : s.cfg.hasSlot 1#1 = true := by simp [Config.hasSlot, h]
  simp [State.csC, hk]

-- Writes by a unit (R10, R30, R34)

/-- A write of `C` by a unit that is no writer of the register is ignored. -/
theorem regWriteC_ignored {s : State} {unit : OpUnit} {idx v : Byte}
    (hp : ¬(unit = .poll ∧ (idx = 0x00#8 ∨ idx = 0x07#8))) (hs : ¬(unit = .sampler ∧ idx = 0x05#8)) :
    s.regWriteC unit idx v = s := by
  unfold State.regWriteC
  split
  next h => exact absurd ⟨rfl, .inl (BitVec.eq_of_toNat_eq h)⟩ hp
  next h => exact absurd ⟨rfl, BitVec.eq_of_toNat_eq h⟩ hs
  next h => exact absurd ⟨rfl, .inr (BitVec.eq_of_toNat_eq h)⟩ hp
  next => rfl

/-- A write of `R_k` by a unit that is no writer of the register is ignored. -/
theorem regWriteR_ignored {s : State} {k : Slot} {unit : OpUnit} {idx v : Byte}
    (h : ¬(unit = .resp ∧ idx ∈ [0x00#8, 0x03#8, 0x04#8, 0x07#8, 0x08#8, 0x09#8])) :
    s.regWriteR k unit idx v = s := by
  have hidx {n : Byte} (e : idx.toNat = n.toNat) (hn : n ∈ [0x00#8, 0x03#8, 0x04#8, 0x07#8, 0x08#8, 0x09#8]) :
      idx ∈ [0x00#8, 0x03#8, 0x04#8, 0x07#8, 0x08#8, 0x09#8] := BitVec.eq_of_toNat_eq e ▸ hn
  unfold State.regWriteR
  split
  next e => exact absurd ⟨rfl, hidx (n := 0x00#8) e (by decide)⟩ h
  next e => exact absurd ⟨rfl, hidx (n := 0x03#8) e (by decide)⟩ h
  next e => exact absurd ⟨rfl, hidx (n := 0x04#8) e (by decide)⟩ h
  next e => exact absurd ⟨rfl, hidx (n := 0x07#8) e (by decide)⟩ h
  next e => exact absurd ⟨rfl, hidx (n := 0x08#8) e (by decide)⟩ h
  next e => exact absurd ⟨rfl, hidx (n := 0x09#8) e (by decide)⟩ h
  next => rfl

/-- Settles O9: the maps index by index, the status bytes bit by bit, the writes by unit and index. -/
theorem statusRegistersShowTheFlags : Obligations.StatusRegistersShowTheFlags := by
  unfold Obligations.StatusRegistersShowTheFlags
  refine ⟨fun s => ?_, fun s k => ?_, fun s k n => ?_, fun s unit idx v => ?_, fun s k unit idx v => ?_⟩
  · exact ⟨rfl, rfl, csC_one, csC_two, rfl, rfl, rfl, rfl, rfl, rfl, rfl⟩
  · exact ⟨rfl, rfl, rfl, rfl, rfl, rfl, rfl, rfl, rfl, rfl⟩
  · have two (a b : Bool) : (flagBit a ||| flagBit b <<< 1).getLsbD n = ((n == 0 && a) || (n == 1 && b)) := by
      rw [BitVec.getLsbD_or, flagBit_getLsbD, flagBit_shiftLeft_getLsbD b n (by decide)]
    refine ⟨two .., flagBit_getLsbD .., two .., ?_, two .., ?_⟩
    · show (RNode.statR _ _).getLsbD n = _
      rw [RNode.statR, BitVec.getLsbD_or, two, flagBit_shiftLeft_getLsbD _ n (by decide)]
    · show (0b000000#6 ++ RNode.pins _).getLsbD n = _
      rw [pins_eq_flags, two]
  · exact ⟨rfl, rfl, rfl, regWriteC_ignored⟩
  · refine ⟨fun hk => ⟨onSlot_next (·.mapR k (·.bufw v)) hk, onSlot_next (·.mapR k (·.irqclr v)) hk⟩, rfl, rfl, rfl, ?_, regWriteR_ignored⟩
    have hlow : v.setWidth 2 = v.extractLsb' 0 2 := by ext i hi; simp
    show s.setRnode k { s.rnode k with dutyL := v.setWidth 2 } = _
    rw [hlow]

end Machine
end Sys2Proof
end

section
/-! The words of FSEQ, RSHIFT, CSMUX, POLL, SAMPLER and the events in the states they name: what each answers, case by case
of its rule (spec/40_transport.md, 41, 42, 44, spec/60_exceptions.md R241–R244), and the statements that follow. -/

namespace Sys2Proof
namespace Machine

-- FSEQ (R101–R105)

section fseq
variable {s : State}

theorem exec_fsIdle (hs : s.c.stalledC = false) (h : s.c.fsState = FS_IDLE) : exec .fsIdle s = .next (fsIdle s) :=
  congrArg Host.Outcome.next (fseqAt_of_state fsIdle hs h)

theorem exec_fsDrive (hs : s.c.stalledC = false) (h : s.c.fsState = FS_DRIVE) : exec .fsDrive s = .next (fsDrive s) :=
  congrArg Host.Outcome.next (fseqAt_of_state fsDrive hs h)

/-- A tick inside the leading half bit. -/
theorem fsDrive_tick (h : (s.counting && s.c.divcntC != 0#16) = true) :
    fsDrive s = s.mapC fun c =>
      { c with sck := s.driveLevel, mosi := s.c.srC.getLsbD 7, divcntC := s.c.divcntC - 1#16 } :=
  if_pos h

/-- `C` with its wires driven for the leading half of a bit (R102). -/
def State.presented (s : State) : State := s.mapC fun c => { c with sck := s.driveLevel, mosi := s.c.srC.getLsbD 7 }

/-- The leading half bit ends with the sample edge. -/
theorem fsDrive_edge (h : (s.counting && s.c.divcntC != 0#16) = false) :
    fsDrive s = (sampleEdge s.presented).mapC fun c => { c with divcntC := s.divReload, fsState := FS_SAMPLE } :=
  if_neg (by simp [h])

/-- A write of `BUF_C` that meets a stuck FSEQ. -/
theorem fsBufw_stuck (v : Byte) (h : fsAssigned s.c.fsState = false) : fsBufw v s = s.illegalC := by
  simpa [fsBufw, State.mapC, State.illegalC, State.raiseC, h] using bufw_cases s.c v s.divReload

end fseq

/-- Settles O10. -/
theorem idleStatesHaveNoStepOfTheirOwn : Obligations.IdleStatesHaveNoStepOfTheirOwn := by
  unfold Obligations.IdleStatesHaveNoStepOfTheirOwn
  exact fun s => ⟨fun hs h => exec_fsIdle hs h, fun h => congrArg Host.Outcome.next (if_pos h)⟩

/-- Settles O11, by whether ticks of the half bit remain. -/
theorem driveHalfBitEndsWithTheSampleEdge : Obligations.DriveHalfBitEndsWithTheSampleEdge := by
  unfold Obligations.DriveHalfBitEndsWithTheSampleEdge
  intro s hs hst
  rw [exec_fsDrive hs hst]
  exact ⟨fun ht hd => congrArg _ (fsDrive_tick (halfBit_goes_on ht hd)), fun hd => congrArg _ (fsDrive_edge (halfBit_ends hd))⟩

/-- Settles O14, by whether FSEQ holds an assigned code and a frame is in progress. -/
theorem controllerBufferWriteAndRead : Obligations.ControllerBufferWriteAndRead := by
  unfold Obligations.ControllerBufferWriteAndRead
  exact fun s v => ⟨fun hfs hb => congrArg _ (fsBufw_collides v hfs hb), fun hfs hb => congrArg _ (fsBufw_starts v hfs hb),
    fun hfs => congrArg _ (fsBufw_stuck v hfs), rfl⟩

-- RSHIFT (R111, R113–R115)

section rshift
variable {s : State} {k : Slot} (hk : s.cfg.hasSlot k = true)
include hk

theorem exec_rsCsedge : exec (.rsCsedge k) s = .next (s.setRnode k ((s.rnode k).csedge (csLine s.c.csN k))) :=
  onSlot_next (fun s => s.mapR k (·.csedge (csLine s.c.csN k))) hk

theorem exec_rsBufr : exec (.rsBufr k) s =
    .next { s.setRnode k (s.rnode k).bufr with result := (s.rnode k).rxbufR.setWidth 10 } :=
  onSlot_next (fun s => { s.mapR k RNode.bufr with result := (s.rnode k).rxbufR.setWidth 10 }) hk

theorem exec_rsBufw (v : Byte) : exec (.rsBufw k v) s = .next (s.setRnode k ((s.rnode k).bufw v)) :=
  onSlot_next (·.mapR k (·.bufw v)) hk

theorem exec_rsIrqclr (m : Byte) : exec (.rsIrqclr k m) s = .next (s.setRnode k ((s.rnode k).irqclr m)) :=
  onSlot_next (·.mapR k (·.irqclr m)) hk

end rshift

section csedge
variable {r : RNode}

/-- A deselect edge discards the bits of a partial frame (R111). -/
theorem csedge_deselect (h : r.csSeen = false) : r.csedge true =
    { r with faultR := if r.bitcntR = 0#4 then r.faultR else r.faultR ||| FRAME_ABORT, bitcntR := 0#4, csSeen := true } := by
  by_cases hb : r.bitcntR = 0#4 <;> simp [RNode.csedge, RNode.raise, h, hb]

/-- Without a deselect edge `CS_SEEN` takes the level of the line (R111). -/
theorem csedge_other {csn : Bool} (h : ¬(r.csSeen = false ∧ csn = true)) : r.csedge csn = { r with csSeen := csn } :=
  if_neg (by simpa using h)

end csedge

/-- Settles O18, by the edge that `RS.CSEDGE` finds and, for a deselect, by whether bits of a frame are in. -/
theorem deselectEdgeAbortsAPartialFrame : Obligations.DeselectEdgeAbortsAPartialFrame := by
  unfold Obligations.DeselectEdgeAbortsAPartialFrame
  intro s k hk
  rw [exec_rsCsedge hk]
  refine ⟨fun hseen hline hb => ?_, fun hseen hline hb => ?_, fun hseen hline => ?_, fun hseen => ?_⟩
  · rw [hline, csedge_deselect hseen, if_neg hb]
  · rw [hline, csedge_deselect hseen, if_pos hb, ← hb]
  · rw [hline, csedge_other (by simp)]
  · rw [csedge_other (by rw [hseen]; simp), ← hseen, setRnode_rnode_eq]

/-- Settles O19: the staged reply by whether a frame is part-way, the flags bit by bit of the mask. -/
theorem responderBufferAndFlagAccesses : Obligations.ResponderBufferAndFlagAccesses := by
  unfold Obligations.ResponderBufferAndFlagAccesses
  intro s k v hk
  refine ⟨exec_rsBufr hk, fun hb => ?_, fun hb => ?_, ?_⟩
  · rw [exec_rsBufw hk, RNode.bufw, if_neg hb, RNode.raise]
  · rw [exec_rsBufw hk, RNode.bufw, if_pos hb]
  · rw [exec_rsIrqclr hk, RNode.irqclr]
    cases v.getLsbD 0 <;> cases v.getLsbD 1 <;> simp

-- CSMUX (R132, R135)

section csmux
variable {s : State}

theorem exec_csSettling (h : s.c.csState = CS_SETTLING) : exec .csSettling s = .next (csSettling s) :=
  congrArg Host.Outcome.next (if_pos h)

/-- A tick inside the settle delay. -/
theorem csSettling_tick (ht : s.cfg.time = .tickAccurate) (h : 1 < s.c.settleCnt.toNat) :
    csSettling s = s.mapC fun c => { c with settleCnt := c.settleCnt - 1#32 } := by
  have hlt : 1#32 < s.c.settleCnt := h
  simp [csSettling, State.counting, ht, State.mapC, hlt]

/-- The last tick of the settle delay. -/
theorem csSettling_last (ht : s.cfg.time = .tickAccurate) (h : s.c.settleCnt.toNat ≤ 1) :
    csSettling s = s.mapC fun c => { c with settleCnt := 0#32, csState := CS_STABLE } := by
  have hlt : ¬1#32 < s.c.settleCnt := Nat.not_lt.mpr h
  simp [csSettling, State.counting, ht, State.mapC, hlt]

theorem csSettling_abstract (ht : s.cfg.time = .timeAbstract) : csSettling s = s := by
  simp [csSettling, State.counting, ht]

end csmux

/-- Settles O20, by the treatment of time and the count. -/
theorem settleDelayCountsDown : Obligations.SettleDelayCountsDown := by
  unfold Obligations.SettleDelayCountsDown
  intro s hst
  rw [exec_csSettling hst]
  exact ⟨fun ht h => congrArg _ (csSettling_tick ht h), fun ht h => congrArg _ (csSettling_last ht h),
    fun ht => congrArg _ (csSettling_abstract ht)⟩

/-- `CSSTAT` says whether a settle delay runs (R30). -/
theorem csStat_eq (c : CNode) : c.csStat = if c.csState = CS_SETTLING then 1#8 else 0#8 := by
  unfold CNode.csStat
  split
  next h => rw [h]; decide
  next h => rw [beq_eq_false_iff_ne.mpr h]; decide

/-- Settles O24, by the number of lines. -/
theorem selectReadReturnsLinesAndStatus : Obligations.SelectReadReturnsLinesAndStatus := by
  unfold Obligations.SelectReadReturnsLinesAndStatus
  intro s
  have hread : exec .csRead s = .next { s with result := s.csC.setWidth 10, resultStat := s.c.csStat } := rfl
  rw [hread, csStat_eq]
  exact ⟨fun h => by rw [csC_one h], fun h => by rw [csC_two h]⟩

-- POLL (R151–R153, R156, R161, R162)

section poll
variable {s : State}

theorem exec_pollGuard (h : s.c.pState = P_GUARD) : exec .pollGuard s = .next (pollGuard s) :=
  congrArg _ (pollAt_of_state pollGuard h)

theorem exec_pollSample (h : s.c.pState = P_SAMPLE) : exec .pollSample s = .next (pollSample s) :=
  congrArg _ (pollAt_of_state pollSample h)

theorem exec_pollExcl (h : s.c.pState = P_EXCL) : exec .pollExcl s = .next (pollExcl s) :=
  congrArg _ (pollAt_of_state pollExcl h)

theorem exec_pollWaitdata (h : s.c.pState = P_WAITDATA) : exec .pollWaitdata s = .next (pollWaitdata s) :=
  congrArg _ (pollAt_of_state pollWaitdata h)

theorem exec_pollWaitreply (h : s.c.pState = P_WAITREPLY) : exec .pollWaitreply s = .next (pollWaitreply s) :=
  congrArg _ (pollAt_of_state pollWaitreply h)

theorem exec_pollReceive (h : s.c.pState = P_RECEIVE) : exec .pollReceive s = .next (pollReceive s) :=
  congrArg _ (pollAt_of_state pollReceive h)

theorem exec_pollSkip (h : s.c.pState = P_SKIP) : exec .pollSkip s = .next (pollSkip s) :=
  congrArg _ (pollAt_of_state pollSkip h)

/-- A step of POLL whose wait is over is taken. -/
theorem pollWhen_true {c : Bool} (f : State → State) (h : c = true) : pollWhen c f s = f s := if_pos h

/-- A step of POLL whose wait is not over holds. -/
theorem pollWhen_false {c : Bool} (f : State → State) (h : c = false) : pollWhen c f s = s := if_neg (by simp [h])

theorem counting_of_tickAccurate (h : s.cfg.time = .tickAccurate) : s.counting = true := by simp [State.counting, h]

theorem counting_of_timeAbstract (h : s.cfg.time = .timeAbstract) : s.counting = false := by simp [State.counting, h]

end poll

/-- Settles O27: the guard delay by the treatment of time and the count, the request by `ADC_BUSY`. -/
theorem guardDelayThenConversionRequest : Obligations.GuardDelayThenConversionRequest := by
  unfold Obligations.GuardDelayThenConversionRequest
  intro s
  refine ⟨fun hst ht hc => ?_, fun hst ht hc => ?_, fun hst ht => ?_, fun hst hb => ?_, fun hst hb => ?_⟩
  · rw [exec_pollGuard hst, pollGuard, pollWhen_true _ (counting_of_tickAccurate ht), if_neg hc, State.mapC]
  · rw [exec_pollGuard hst, pollGuard, pollWhen_true _ (counting_of_tickAccurate ht), if_pos hc, goP, State.mapC]
  · rw [exec_pollGuard hst, pollGuard, pollWhen_false _ (counting_of_timeAbstract ht)]
  · rw [exec_pollSample hst, pollSample, hb, if_neg (by decide), smpStart, goP, State.mapC, State.mapC]
  · rw [exec_pollSample hst, pollSample, hb, if_pos rfl, goP, State.mapC]

/-- Settles O28: the wait by `CS_STATE`, then the other slot's line, which is low where that slot is selected. -/
theorem exclusionDeselectsTheOtherSlot : Obligations.ExclusionDeselectsTheOtherSlot := by
  unfold Obligations.ExclusionDeselectsTheOtherSlot
  intro s hst
  rw [exec_pollExcl hst, pollExcl]
  refine ⟨fun hw => ?_, fun hs hother => ?_, fun hs hother => ?_⟩
  · rw [pollWhen_waits _ hw]
  · have hlow : csLine s.c.csN (~~~s.c.slot) = false := by simp_all [State.selected]
    rw [pollWhen_stable _ hs, if_pos (by exact hother), csDeassert_stable (s := s.mapC CNode.endPulse) hs,
      deassertLine_low (s := s.mapC CNode.endPulse) hlow, State.mapC, State.mapC, inFrame_eq, CNode.endPulse]
  · rw [pollWhen_stable _ hs, if_neg (by simp [State.otherSelected, hother]), goP, State.mapC, State.mapC,
      CNode.endPulse]

/-- Settles O31: both words wait for `RDY`, read the byte and go on. -/
theorem dataFrameIsWaitedOutAndDiscarded : Obligations.DataFrameIsWaitedOutAndDiscarded := by
  unfold Obligations.DataFrameIsWaitedOutAndDiscarded
  intro s i here after hi hst
  have hexec : exec i s = .next (pollWhen s.c.rdy (fun s => goP after (s.mapC CNode.bufr)) s) := by
    rcases hi with ⟨rfl, rfl, rfl⟩ | ⟨rfl, rfl, rfl⟩
    · exact exec_pollWaitdata hst
    · exact exec_pollSkip hst
  rw [hexec]
  exact ⟨fun hr => congrArg _ (pollWhen_false _ hr), fun hr => congrArg _ (pollWhen_true _ hr)⟩

/-- Settles O33: the wait by `RDY`, then the received byte. -/
theorem replyIsWaitedForAndReceived : Obligations.ReplyIsWaitedForAndReceived := by
  unfold Obligations.ReplyIsWaitedForAndReceived
  intro s
  refine ⟨fun hst hr => ?_, fun hst hr => ?_, exec_pollReceive⟩
  · rw [exec_pollWaitreply hst, pollWaitreply, pollWhen_false _ hr]
  · rw [exec_pollWaitreply hst, pollWaitreply, pollWhen_true _ hr, goP, State.mapC]

-- RESP: the duty (R37, R186, R188)

theorem exec_respPwmsplit {s : State} {k : Slot} (hk : s.cfg.hasSlot k = true) (d : BitVec 10)
    (hv : (s.cfg.slot k).variant = .pwm) (ha : respAssigned (s.rnode k).rState = true) :
    exec (.respPwmsplit k d) s = .next (s.setRnode k ((s.rnode k).pwmsplit d)) :=
  (onSlot_next _ hk).trans (congrArg _ (inVariant_taken (·.pwmsplit d) hv ha))

/-- The duty port shows the duty that was split (R37, R188). -/
theorem duty_pwmsplit (r : RNode) (d : BitVec 10) : (r.pwmsplit d).duty = d := by
  show d.extractLsb' 2 8 ++ d.extractLsb' 0 2 = d
  ext i hi
  rw [BitVec.getElem_append]
  split
  · simp_all
  · simp only [BitVec.getElem_extractLsb', BitVec.getLsbD_eq_getElem (show 2 + (i - 2) < 10 by omega)]
    congr 1; omega

/-- Settles O41: the handler is the split of the mapped byte with both flags cleared. -/
theorem pwmHandlerWritesTheSplitDuty : Obligations.PwmHandlerWritesTheSplitDuty := by
  unfold Obligations.PwmHandlerWritesTheSplitDuty
  intro s k d hk hv ha
  refine ⟨?_, exec_respPwmsplit hk d hv ha, duty_pwmsplit _ d⟩
  rw [exec_respHRxPwm hk hv ha, RNode.hRxPwm, irqclr_rx, RNode.pwmsplit, RNode.bufr]

-- SAMPLER and events (R211–R213, R241, R242)

theorem exec_smpIdle {s : State} (h : s.c.sState = S_IDLE) : exec .smpIdle s = .next (smpIdle s) :=
  congrArg Host.Outcome.next (if_pos h)

theorem exec_smpIsr {s : State} (h : s.c.sState = S_IDLE) : exec .smpIsr s = .next (smpIsr s) :=
  congrArg Host.Outcome.next (if_pos (by rw [h]; rfl))

/-- Settles O45: the dispatch by `ADIF`; the copy is the sampler's step. -/
theorem samplerCopiesTheExpectedChannel : Obligations.SamplerCopiesTheExpectedChannel := by
  unfold Obligations.SamplerCopiesTheExpectedChannel
  refine fun s => ⟨exec_smpIsr, fun hst hf => ?_, fun hst hf => ?_, rfl⟩
  · exact (exec_smpIdle hst).trans (congrArg _ (if_pos hf))
  · exact (exec_smpIdle hst).trans (congrArg _ (if_neg (by simp [hf])))

theorem exec_evPin {s : State} {k : Slot} (hk : s.cfg.hasSlot k = true) (pin : Pin) (level : Bool) :
    exec (.evPin k pin level) s = .next (s.setRnode k ((s.rnode k).setPin pin level)) :=
  onSlot_next (·.mapR k (·.setPin pin level)) hk

/-- Settles O46: the completion by whether it is enabled; a pin event writes the one level. -/
theorem conversionAndPinEvents : Obligations.ConversionAndPinEvents := by
  unfold Obligations.ConversionAndPinEvents
  refine fun s ch res k level => ⟨fun hb hch => ?_, fun h => ?_, fun hk => ⟨exec_evPin hk .inc level, exec_evPin hk .dec level⟩⟩
  · exact congrArg Host.Outcome.next (if_pos (by simp [State.adcDoneEnabled, hb, hch]))
  · exact congrArg Host.Outcome.next (if_neg (by simpa [State.adcDoneEnabled] using h))

/-- Settles O50: the values `CNode.atReset` and `RNode.atReset` load, for whatever draws. -/
theorem resetLoadsEveryRegister : Obligations.ResetLoadsEveryRegister := by
  unfold Obligations.ResetLoadsEveryRegister
  refine fun s => ⟨evReset s, rfl, rfl, rfl, rfl, rfl, rfl, rfl, rfl, rfl, rfl, rfl, rfl, rfl, rfl, rfl, rfl, rfl, rfl,
    rfl, rfl, rfl, rfl, rfl, rfl, rfl, fun k => ?_⟩
  rcases slot_cases k with rfl | rfl <;> exact ⟨rfl, rfl, rfl, rfl, rfl, rfl, rfl, rfl, rfl, rfl, rfl, rfl, rfl, rfl⟩

end Machine
end Sys2Proof
end

section
/-! The words of FSM states, unit by unit: the state each names and the step it takes there, and what follows where the unit
is in another state or in none (spec/30_encoding.md R82–R90, spec/60_exceptions.md R226). -/

namespace Sys2Proof
namespace Machine

-- FSEQ (R83)

/-- The word `i` names the FSEQ state `code`, whose step is `f`. -/
inductive FseqWord : Instr → Code → (State → State) → Prop where
  | idle : FseqWord .fsIdle FS_IDLE fsIdle
  | drive : FseqWord .fsDrive FS_DRIVE fsDrive
  | sample : FseqWord .fsSample FS_SAMPLE fsSample
  | complete : FseqWord .fsComplete FS_COMPLETE fsComplete

section fseq
variable {i : Instr} {code : Code} {f : State → State}

theorem FseqWord.exec (h : FseqWord i code f) (s : State) : exec i s = .next (fseqAt code f s) := by
  cases h <;> rfl

theorem FseqWord.assigned (h : FseqWord i code f) : fsAssigned code = true := by
  cases h <;> rfl

theorem FseqWord.encodeWord (h : FseqWord i code f) : encodeWord i = 0b000#3 ++ code := by
  cases h <;> rfl

/-- The step FSEQ takes in a tick is that of the word of its state. -/
theorem FseqWord.tick (h : FseqWord i code f) {s : State} (hc : s.c.fsState = code) : fseqStep s = fseqAt code f s := by
  unfold fseqStep fseqAt
  split
  · rfl
  · cases h <;> simp [hc, atState, FS_IDLE, FS_DRIVE, FS_SAMPLE, FS_COMPLETE]

end fseq

theorem fseqWord_of_unit {i : Instr} (hu : i.unit = .fseq) (hk : i.kind = .state) : ∃ code f, FseqWord i code f := by
  cases i with
  | fsIdle => exact ⟨_, _, .idle⟩
  | fsDrive => exact ⟨_, _, .drive⟩
  | fsSample => exact ⟨_, _, .sample⟩
  | fsComplete => exact ⟨_, _, .complete⟩
  | fsBufw _ | fsBufr => cases hk
  | _ => cases hu

-- CSMUX (R84)

/-- The word `i` names the CSMUX state `code`, whose step is `f`. -/
inductive CsmuxWord : Instr → Code → (State → State) → Prop where
  | stable : CsmuxWord .csStable CS_STABLE csStable
  | settling : CsmuxWord .csSettling CS_SETTLING csSettling

section csmux
variable {i : Instr} {code : Code} {f : State → State}

theorem CsmuxWord.exec (h : CsmuxWord i code f) (s : State) :
    exec i s = .next (atState s.c.csState code csAssigned State.illegalC f s) := by
  cases h <;> rfl

theorem CsmuxWord.encodeWord (h : CsmuxWord i code f) : encodeWord i = 0b010#3 ++ code := by
  cases h <;> rfl

theorem CsmuxWord.assigned (h : CsmuxWord i code f) : csAssigned code = true := by
  cases h <;> rfl

/-- The step CSMUX takes in a tick is that of the word of its state. -/
theorem CsmuxWord.tick (h : CsmuxWord i code f) {s : State} (hc : s.c.csState = code) : csmuxStep s = f s := by
  unfold csmuxStep
  cases h <;> simp [hc, CS_STABLE, CS_SETTLING]

end csmux

theorem csmuxWord_of_unit {i : Instr} (hu : i.unit = .csmux) (hk : i.kind = .state) : ∃ code f, CsmuxWord i code f := by
  cases i with
  | csStable => exact ⟨_, _, .stable⟩
  | csSettling => exact ⟨_, _, .settling⟩
  | csAssert _ | csDeassert _ | csRead => cases hk
  | _ => cases hu

-- POLL (R85)

/-- The word `i` names the POLL state `code`, whose step is `f`. -/
inductive PollWord : Instr → Code → (State → State) → Prop where
  | guard : PollWord .pollGuard P_GUARD pollGuard
  | sample : PollWord .pollSample P_SAMPLE pollSample
  | excl : PollWord .pollExcl P_EXCL pollExcl
  | select : PollWord .pollSelect P_SELECT pollSelect
  | txdata : PollWord .pollTxdata P_TXDATA pollTxdata
  | waitdata : PollWord .pollWaitdata P_WAITDATA pollWaitdata
  | deselect : PollWord .pollDeselect P_DESELECT pollDeselect
  | settle : PollWord .pollSettle P_SETTLE pollSettle
  | reselect : PollWord .pollReselect P_RESELECT pollReselect
  | txsent : PollWord .pollTxsent P_TXSENT pollTxsent
  | waitreply : PollWord .pollWaitreply P_WAITREPLY pollWaitreply
  | receive : PollWord .pollReceive P_RECEIVE pollReceive
  | display : PollWord .pollDisplay P_DISPLAY pollDisplay
  | next : PollWord .pollNext P_NEXT pollNext
  | skip : PollWord .pollSkip P_SKIP pollSkip

section poll
variable {i : Instr} {code : Code} {f : State → State}

theorem PollWord.exec (h : PollWord i code f) (s : State) : exec i s = .next (pollAt code f s) := by
  cases h <;> rfl

theorem PollWord.encodeWord (h : PollWord i code f) : encodeWord i = 0b011#3 ++ code := by
  cases h <;> rfl

theorem PollWord.assigned (h : PollWord i code f) : pollAssigned code = true := by
  cases h <;> rfl

/-- The step POLL takes in a tick is that of the word of its state. -/
theorem PollWord.tick (h : PollWord i code f) {s : State} (hc : s.c.pState = code) : pollStep s = f s := by
  unfold pollStep
  rw [hc]
  cases h <;> rfl

end poll

theorem pollWord_of_unit {i : Instr} (hu : i.unit = .poll) : ∃ code f, PollWord i code f := by
  cases i with
  | pollGuard => exact ⟨_, _, .guard⟩
  | pollSample => exact ⟨_, _, .sample⟩
  | pollExcl => exact ⟨_, _, .excl⟩
  | pollSelect => exact ⟨_, _, .select⟩
  | pollTxdata => exact ⟨_, _, .txdata⟩
  | pollWaitdata => exact ⟨_, _, .waitdata⟩
  | pollDeselect => exact ⟨_, _, .deselect⟩
  | pollSettle => exact ⟨_, _, .settle⟩
  | pollReselect => exact ⟨_, _, .reselect⟩
  | pollTxsent => exact ⟨_, _, .txsent⟩
  | pollWaitreply => exact ⟨_, _, .waitreply⟩
  | pollReceive => exact ⟨_, _, .receive⟩
  | pollDisplay => exact ⟨_, _, .display⟩
  | pollNext => exact ⟨_, _, .next⟩
  | pollSkip => exact ⟨_, _, .skip⟩
  | _ => cases hu

-- An unassigned code, and a state the word does not name

theorem atState_unassigned {reg code : Code} {a : Code → Bool} {g f : State → State} (s : State)
    (ha : a reg = false) (hc : a code = true) : atState reg code a g f s = g s := by
  have hne : reg ≠ code := fun e => by simp [← e, ha] at hc
  rw [atState, if_neg hne, if_neg (by simp [ha])]

theorem atState_elsewhere {reg code : Code} {a : Code → Bool} {g f : State → State} (s : State)
    (ha : a reg = true) (hne : reg ≠ code) : atState reg code a g f s = s := by
  rw [atState, if_neg hne, if_pos ha]

/-- A word of a responder's variant, where its code is unassigned. -/
theorem inVariant_unassigned {s : State} {k : Slot} {v : Variant} (f : RNode → RNode) (hv : (s.cfg.slot k).variant = v)
    (ha : respAssigned (s.rnode k).rState = false) : inVariant v k f s = State.illegalR k s :=
  (if_pos hv).trans (respOwn_unassigned _ ha)

/-- A word of the other variant holds. -/
theorem inVariant_other {s : State} {k : Slot} {v : Variant} (f : RNode → RNode) (hv : (s.cfg.slot k).variant ≠ v) :
    inVariant v k f s = s := if_neg hv

/-- Settles O51: each unit's words, by the rule that runs them. -/
theorem unassignedCodesRaiseIllegalState : Obligations.UnassignedCodesRaiseIllegalState := by
  unfold Obligations.UnassignedCodesRaiseIllegalState
  refine fun s i => ⟨?_, fun k hk ha => ?_⟩
  · show _ → exec i s = .next s.illegalC
    rintro (⟨hu, ha⟩ | ⟨hu, hkind, hs, ha⟩ | ⟨⟨v, rfl⟩, ha⟩ | ⟨hu, hkind, ha⟩ | ⟨rfl | rfl, ha⟩)
    · obtain ⟨code, f, hw⟩ := pollWord_of_unit hu
      rw [hw.exec, pollAt, atState_unassigned s ha hw.assigned]
    · obtain ⟨code, f, hw⟩ := fseqWord_of_unit hu hkind
      rw [hw.exec, fseqAt, hs, if_neg (by decide), atState_unassigned s ha hw.assigned]
    · exact congrArg Host.Outcome.next (fsBufw_stuck v ha)
    · obtain ⟨code, f, hw⟩ := csmuxWord_of_unit hu hkind
      rw [hw.exec, atState_unassigned s ha hw.assigned]
    · exact congrArg Host.Outcome.next (atState_unassigned s ha rfl)
    · exact congrArg Host.Outcome.next (if_neg (by simp [ha]))
  · show _ → exec i s = .next (State.illegalR k s)
    rintro ((rfl | rfl | ⟨x, rfl⟩) | ⟨hv, rfl | rfl | rfl⟩ | ⟨hv, rfl | ⟨d, rfl⟩⟩)
    · exact (onSlot_next _ hk).trans (congrArg _ (atState_unassigned s ha rfl))
    · exact (onSlot_next _ hk).trans (congrArg _ (atState_unassigned s ha rfl))
    · exact (onSlot_next _ hk).trans (congrArg _ (respOwn_unassigned _ ha))
    all_goals exact (onSlot_next _ hk).trans (congrArg _ (inVariant_unassigned _ hv ha))

/-- Settles O52: each unit's words, by the rule that runs them; the word of a state differs where its code does. -/
theorem operationsThatAreNotEnabledHold : Obligations.OperationsThatAreNotEnabledHold := by
  unfold Obligations.OperationsThatAreNotEnabledHold
  have hcode {u : BitVec 3} {reg code : Code} {w : Byte} (hw : w = u ++ code) (hne : w ≠ u ++ reg) : reg ≠ code :=
    fun e => hne (e ▸ hw)
  refine fun s i => ⟨fun hu hkind h => ?_, fun hu hkind ha hne => ?_, fun hu ha hne => ?_, fun k hk => ⟨?_, ?_, ?_⟩⟩
  · obtain ⟨code, f, hw⟩ := fseqWord_of_unit hu hkind
    rw [hw.exec, fseqAt]
    rcases h with hs | ⟨ha, hne⟩
    · rw [if_pos hs]
    · rw [atState_elsewhere s ha (hcode hw.encodeWord hne), ite_self]
  · obtain ⟨code, f, hw⟩ := csmuxWord_of_unit hu hkind
    rw [hw.exec, atState_elsewhere s ha (hcode hw.encodeWord hne)]
  · obtain ⟨code, f, hw⟩ := pollWord_of_unit hu
    rw [hw.exec, pollAt, atState_elsewhere s ha (hcode hw.encodeWord hne)]
  · rintro (rfl | rfl) ha hne
    · exact (onSlot_next _ hk).trans (congrArg _ (atState_elsewhere s ha (hcode (u := 0b100#3) (code := R_IDLE) rfl hne)))
    · exact (onSlot_next _ hk).trans (congrArg _ (atState_elsewhere s ha (hcode (u := 0b100#3) (code := R_SERVICE) rfl hne)))
  · rintro hv (rfl | rfl | rfl) <;> exact (onSlot_next _ hk).trans (congrArg _ (inVariant_other _ (by simp [hv])))
  · rintro hv (rfl | ⟨d, rfl⟩) <;> exact (onSlot_next _ hk).trans (congrArg _ (inVariant_other _ (by simp [hv])))

end Machine
end Sys2Proof
end

section
/-! RESP.LINMAP in exact integer arithmetic (spec/43_response_fsm.md R187, R191) and the counter law (R190). -/

namespace Sys2Proof
namespace Machine

-- The rounded quotient (R187)

/-- `q / 255` rounded to the nearest integer, ties away from zero. -/
def roundDiv255 (q : Int) : Int := if 0 ≤ q then (2 * q + 255) / 510 else -((2 * (-q) + 255) / 510)

theorem roundDiv255_mono {q q' : Int} (h : q ≤ q') : roundDiv255 q ≤ roundDiv255 q' := by
  unfold roundDiv255; split <;> split <;> omega

/-- A multiple of 255 is divided exactly. -/
theorem roundDiv255_mul (d : Int) : roundDiv255 (d * 255) = d := by
  unfold roundDiv255; split <;> omega

section linmap
variable {cfg : Config} {sc : SlotConfig}

theorem linmap_eq (h0 : cfg.inMin = 0) (h255 : cfg.inMax = 255) (x : Byte) :
    linmap cfg sc x = BitVec.ofInt 10 (sc.outMin + roundDiv255 (((sc.outMax : Int) - sc.outMin) * (x.toNat : Int))) := by
  simp [linmap, h0, h255, roundDiv255]

/-- The mapped byte stands between the ends of the range, rising or falling: the quotient lies between its values at 0 and
255. -/
theorem roundDiv255_between (lo hi : Int) (x : Byte) :
    min lo hi ≤ lo + roundDiv255 ((hi - lo) * (x.toNat : Int)) ∧ lo + roundDiv255 ((hi - lo) * (x.toNat : Int)) ≤ max lo hi := by
  have hx0 : (0 : Int) ≤ x.toNat := Int.natCast_nonneg _
  have hx : (x.toNat : Int) ≤ 255 := by have := x.isLt; omega
  have hzero : roundDiv255 0 = 0 := roundDiv255_mul 0
  rcases le_total lo hi with h | h
  · have h1 := roundDiv255_mono (mul_nonneg (sub_nonneg.mpr h) hx0)
    have h2 := roundDiv255_mono (mul_le_mul_of_nonneg_left hx (sub_nonneg.mpr h))
    rw [hzero] at h1
    rw [roundDiv255_mul] at h2
    omega
  · have h1 := roundDiv255_mono (mul_nonpos_of_nonpos_of_nonneg (sub_nonpos.mpr h) hx0)
    have h2 := roundDiv255_mono (mul_le_mul_of_nonpos_left hx (sub_nonpos.mpr h))
    rw [hzero] at h1
    rw [roundDiv255_mul] at h2
    omega

/-- The result fits its 10 bits, so it is the exact integer. -/
theorem linmap_toNat (h0 : cfg.inMin = 0) (h255 : cfg.inMax = 255) (hmin : sc.outMin ≤ 1023) (hmax : sc.outMax ≤ 1023)
    (x : Byte) : ((linmap cfg sc x).toNat : Int) =
      sc.outMin + roundDiv255 (((sc.outMax : Int) - sc.outMin) * (x.toNat : Int)) := by
  obtain ⟨h1, h2⟩ := roundDiv255_between sc.outMin sc.outMax x
  rw [linmap_eq h0 h255, BitVec.toNat_ofInt]
  omega

end linmap

/-- Settles O42: the result is the exact integer, and the quotient lies between its values at the ends. -/
theorem linearMapIsTheExactIntegerForm : Obligations.LinearMapIsTheExactIntegerForm := by
  unfold Obligations.LinearMapIsTheExactIntegerForm
  intro s k x hk h0 h255 hmin hmax ha lo hi q
  refine ⟨linmap s.cfg (s.cfg.slot k) x, ?_, linmap_toNat h0 h255 hmin hmax x, ?_⟩
  · exact (onSlot_next _ hk).trans (congrArg _ (respOwn_assigned _ ha))
  · rw [linmap_toNat h0 h255 hmin hmax x]
    exact roundDiv255_between lo hi x

/-- Settles O43: rounding is monotone and exact at multiples of 255. -/
theorem linearMapIsMonotoneWithExactEnds : Obligations.LinearMapIsMonotoneWithExactEnds := by
  unfold Obligations.LinearMapIsMonotoneWithExactEnds
  intro cfg sc h0 h255 hmin hmax
  have hnat := linmap_toNat h0 h255 hmin hmax
  refine ⟨fun hle x y hxy => ?_, ?_, ?_⟩
  · have hq : ((sc.outMax : Int) - sc.outMin) * (x.toNat : Int) ≤ ((sc.outMax : Int) - sc.outMin) * (y.toNat : Int) :=
      mul_le_mul_of_nonneg_left (by exact_mod_cast hxy) (by omega)
    have := roundDiv255_mono hq
    have := hnat x
    have := hnat y
    omega
  · have h := hnat 0#8
    have hzero : roundDiv255 0 = 0 := roundDiv255_mul 0
    simp only [BitVec.toNat_ofNat, Nat.zero_mod, Nat.cast_zero, mul_zero, hzero] at h
    omega
  · have h := hnat 255#8
    have hend := roundDiv255_mul ((sc.outMax : Int) - sc.outMin)
    simp only [BitVec.toNat_ofNat, Nat.reducePow, Nat.reduceMod, Nat.cast_ofNat, hend] at h
    omega

-- The counter law (R190)

/-- A pin event detected and serviced: the pin's level, its detection, the dispatch and the service. -/
def servicedPin (k : Slot) (pin : Pin) (level : Bool) : List Instr :=
  [.evPin k pin level, .respPindet k, .respIdle k, .respService k]

theorem pressOps_eq (k : Slot) (pin : Pin) : pressOps k pin = servicedPin k pin false ++ servicedPin k pin true := rfl

/-- An edge service with no frame pending: the counter is adjusted once, the flag cleared. -/
theorem service_edge (cfg : Config) {sc : SlotConfig} {r : RNode} (hv : sc.variant = .counterDisplay)
    (he : r.edgeF = true) (hi : r.irqfRx = false) :
    r.service cfg sc = { r with counter := r.adjusted, edgeF := false, rState := R_IDLE } := by
  have hedge : r.serviceEdge sc.variant = { r with counter := r.adjusted, edgeF := false } :=
    (if_pos ⟨hv, he⟩).trans hEdge_eq
  rw [RNode.service, hedge, serviceRx_not_pending _ _ (by simp [hi]), RNode.leaveService]

/-- What a serviced pin change leaves of an idle node with the pin already moved. -/
def RNode.edgeServiced (r : RNode) : RNode := { r with pinLast := r.pins, counter := r.adjusted }

/-- What a change of an enabled pin, serviced, leaves in an idle counter responder. -/
theorem runOps_servicedPin {s : State} {k : Slot} {pin : Pin} {level : Bool} {r : RNode}
    (hr : (s.rnode k).setPin pin level = r) (hk : s.cfg.hasSlot k = true)
    (hv : (s.cfg.slot k).variant = .counterDisplay) (hst : r.rState = R_IDLE) (hf : r.edgeF = false)
    (hi : r.irqfRx = false) (hch : (r.pins ^^^ r.pinLast) &&& r.edgeEn ≠ 0#2) :
    runOps (servicedPin k pin level) s =
      .next (s.setRnode k r.edgeServiced) := by
  have hpin := exec_evPin hk pin level
  have hdet : exec (.respPindet k) (s.setRnode k r) =
      .next (s.setRnode k { r with edgeF := true, pinLast := r.pins }) := by
    rw [exec_respPindet (by simpa using hk) (by simpa using hv) (by rw [setRnode_rnode_self, hst]; rfl),
      setRnode_rnode_self, setRnode_setRnode, pindet_of_change hch]
  have hidle : exec (.respIdle k) (s.setRnode k { r with edgeF := true, pinLast := r.pins }) =
      .next (s.setRnode k { r with edgeF := true, pinLast := r.pins, rState := R_SERVICE }) := by
    rw [exec_respIdle (by simpa using hk) (by simpa using hst), setRnode_rnode_self, setRnode_setRnode,
      idle_of_pending (.inr ⟨by simpa using hv, rfl⟩)]
  have hserve : exec (.respService k) (s.setRnode k { r with edgeF := true, pinLast := r.pins, rState := R_SERVICE }) =
      .next (s.setRnode k r.edgeServiced) := by
    rw [exec_respService (by simpa using hk) (by simp), setRnode_rnode_self, setRnode_setRnode,
      service_edge (r := { r with edgeF := true, pinLast := r.pins, rState := R_SERVICE }) _ (by simpa using hv) rfl hi,
      RNode.edgeServiced, ← hst, ← hf]
    rfl
  simp only [servicedPin, runOps, hpin, hr, hdet, hidle, hserve]

/-- The node of an idle counter responder with both pins enabled and up, and nothing pending. -/
structure IdlePins (r : RNode) : Prop where
  edgeEn : r.edgeEn = 0b11#2
  pinLast : r.pinLast = 0b11#2
  incN : r.incN = true
  decN : r.decN = true
  edgeF : r.edgeF = false
  irqfRx : r.irqfRx = false
  rState : r.rState = R_IDLE

/-- What one press of a pin adds to the counter, modulo 256. -/
def pressStep : Pin → Byte
  | .inc => 1#8
  | .dec => -1#8

/-- The node once `pin` is pressed and the press serviced while held. -/
def RNode.held (r : RNode) (pin : Pin) : RNode :=
  { r.setPin pin false with counter := r.counter + pressStep pin, pinLast := (r.setPin pin false).pins }

section node
variable {r : RNode} (h : IdlePins r) (pin : Pin)
include h

theorem IdlePins.press_changes :
    ((r.setPin pin false).pins ^^^ (r.setPin pin false).pinLast) &&& (r.setPin pin false).edgeEn ≠ 0#2 := by
  obtain ⟨hen, hlast, hinc, hdec, -⟩ := h
  cases pin <;> simp [RNode.setPin, RNode.pins, hen, hlast, hinc, hdec]

/-- The press adjusts the counter by its pin's step: the other pin is up. -/
theorem IdlePins.press_adjusts : (r.setPin pin false).adjusted = r.counter + pressStep pin := by
  obtain ⟨hen, -, hinc, -⟩ := h
  cases pin <;> simp [RNode.adjusted, RNode.setPin, pressStep, hen, hinc, sub_eq_add_neg]

theorem IdlePins.press_serviced : (r.setPin pin false).edgeServiced = r.held pin := by
  rw [RNode.edgeServiced, h.press_adjusts pin, RNode.held]

theorem IdlePins.release_changes :
    (((r.held pin).setPin pin true).pins ^^^ ((r.held pin).setPin pin true).pinLast)
      &&& ((r.held pin).setPin pin true).edgeEn ≠ 0#2 := by
  obtain ⟨hen, hlast, hinc, hdec, -⟩ := h
  cases pin <;> simp [RNode.held, RNode.setPin, RNode.pins, hen, hinc, hdec]

/-- The release finds both pins up, so the counter stays. -/
theorem IdlePins.release_adjusts : ((r.held pin).setPin pin true).adjusted = r.counter + pressStep pin := by
  obtain ⟨hen, -, hinc, hdec, -⟩ := h
  cases pin <;> simp [RNode.adjusted, RNode.held, RNode.setPin, hen, hinc, hdec]

theorem IdlePins.release_pins : ((r.held pin).setPin pin true).pins = r.pinLast := by
  obtain ⟨-, hlast, hinc, hdec, -⟩ := h
  cases pin <;> simp [RNode.pins, RNode.held, RNode.setPin, hinc, hdec, hlast]

theorem IdlePins.release_serviced :
    ((r.held pin).setPin pin true).edgeServiced = { r with counter := r.counter + pressStep pin } := by
  rw [RNode.edgeServiced, h.release_adjusts pin, h.release_pins pin]
  cases pin <;> simp [RNode.held, RNode.setPin, h.incN, h.decN]

/-- Neither pin event moves RESP or its flags. -/
theorem IdlePins.setPin_idle (level : Bool) :
    (r.setPin pin level).rState = R_IDLE ∧ (r.setPin pin level).edgeF = false ∧ (r.setPin pin level).irqfRx = false := by
  cases pin <;> exact ⟨h.rState, h.edgeF, h.irqfRx⟩

theorem IdlePins.release_idle : ((r.held pin).setPin pin true).rState = R_IDLE
    ∧ ((r.held pin).setPin pin true).edgeF = false ∧ ((r.held pin).setPin pin true).irqfRx = false := by
  cases pin <;> exact ⟨h.rState, h.edgeF, h.irqfRx⟩

end node

/-- `R_k` is an idle counter responder with both pins enabled and up, and nothing pending. -/
structure IdleCounter (k : Slot) (s : State) : Prop where
  slot : s.cfg.hasSlot k = true
  variant : (s.cfg.slot k).variant = .counterDisplay
  pins : IdlePins (s.rnode k)

/-- The machine with the counter of `R_k` at `v`. -/
def State.withCounter (s : State) (k : Slot) (v : Byte) : State := s.setRnode k { s.rnode k with counter := v }

theorem IdleCounter.withCounter {k : Slot} {s : State} (h : IdleCounter k s) (v : Byte) :
    IdleCounter k (s.withCounter k v) := by
  obtain ⟨hk, hv, hp⟩ := h
  rw [State.withCounter]
  exact ⟨by simpa using hk, by simpa using hv, by rw [setRnode_rnode_self]; exact { hp with }⟩

/-- A press, serviced while held, and its release, serviced too, adjust the counter once. -/
theorem runOps_press {k : Slot} {s : State} (h : IdleCounter k s) (pin : Pin) :
    runOps (pressOps k pin) s = .next (s.withCounter k ((s.rnode k).counter + pressStep pin)) := by
  obtain ⟨hk, hv, hp⟩ := h
  have hpress : runOps (servicedPin k pin false) s = .next (s.setRnode k ((s.rnode k).held pin)) := by
    obtain ⟨hst, hf, hi⟩ := hp.setPin_idle pin false
    rw [runOps_servicedPin rfl hk hv hst hf hi (hp.press_changes pin), hp.press_serviced pin]
  have hrelease : runOps (servicedPin k pin true) (s.setRnode k ((s.rnode k).held pin)) =
      .next (s.withCounter k ((s.rnode k).counter + pressStep pin)) := by
    obtain ⟨hst, hf, hi⟩ := hp.release_idle pin
    rw [runOps_servicedPin (by rw [setRnode_rnode_self]) (by simpa using hk) (by simpa using hv) hst hf hi
      (hp.release_changes pin), setRnode_setRnode, hp.release_serviced pin, State.withCounter]
  rw [pressOps_eq, runOps_append hpress, hrelease]

theorem withCounter_withCounter (s : State) (k : Slot) (v w : Byte) :
    (s.withCounter k v).withCounter k w = s.withCounter k w := by
  rw [State.withCounter, State.withCounter, setRnode_setRnode, setRnode_rnode_self, State.withCounter]

@[simp] theorem withCounter_counter (s : State) (k : Slot) (v : Byte) : ((s.withCounter k v).rnode k).counter = v := by
  rw [State.withCounter, setRnode_rnode_self]

/-- `n` presses of one pin add `n` steps. -/
theorem runOps_presses {k : Slot} (pin : Pin) (n : Nat) {s : State} (h : IdleCounter k s) :
    runOps (presses k pin n) s =
      .next (s.withCounter k ((s.rnode k).counter + BitVec.ofNat 8 n * pressStep pin)) := by
  induction n generalizing s with
  | zero =>
    rw [presses, runOps, State.withCounter, BitVec.zero_mul, BitVec.add_zero, setRnode_rnode_eq]
  | succ n ih =>
    have hcount (c d : Byte) : c + d + BitVec.ofNat 8 n * d = c + BitVec.ofNat 8 (n + 1) * d := by
      rw [BitVec.ofNat_add, show (1#8 : Byte) = 1 from rfl]; ring
    rw [presses, runOps_append (runOps_press h pin), ih (h.withCounter _), withCounter_counter,
      withCounter_withCounter, hcount]

/-- Settles O44: `n` presses of INC add `n`, `m` of DEC take `m` away. -/
theorem counterLaw : Obligations.CounterLaw := by
  unfold Obligations.CounterLaw
  intro s k n m hk hv hen hlast hinc hdec hf hi hst
  have h : IdleCounter k s := ⟨hk, hv, hen, hlast, hinc, hdec, hf, hi, hst⟩
  have hcount (c a b : Byte) : c + a * pressStep .inc + b * pressStep .dec = c + a - b := by
    simp only [pressStep, show (1#8 : Byte) = 1 from rfl]; ring
  rw [runOps_append (runOps_presses .inc n h), runOps_presses .dec m (h.withCounter _), withCounter_withCounter,
    withCounter_counter, hcount, State.withCounter]

end Machine
end Sys2Proof
end

section
/-! Frames (spec/40_transport.md R102–R109): how many ticks a frame lasts, and which bytes it exchanges. -/

namespace Sys2Proof
namespace Machine

/-- The sample edge of a half bit with one responder selected: C drives the bit and takes in the responder's, the responder
takes in C's. -/
theorem fsDrive_exchanges {s : State} {k : Slot} (hd : (s.counting && s.c.divcntC != 0#16) = false)
    (hsel : s.selected k = true) (hother : s.selected (~~~k) = false) :
    fsDrive s = ({ s with
      c := { s.c with sck := s.driveLevel, mosi := s.c.srC.getLsbD 7, srC := shiftIn s.c.srC (s.rnode k).misoDrv,
                      divcntC := s.divReload, fsState := FS_SAMPLE } } : State).setRnode k
      ((s.rnode k).shift (s.c.srC.getLsbD 7)) := by
  rw [fsDrive_edge hd, sampleEdge_one s.presented k hsel hother]
  rcases slot_cases k with rfl | rfl <;> rfl

-- The ticks of a frame (R109)

/-- Ticks count, one responder is selected, and FSEQ neither stalls nor has completed. -/
structure FrameTicking (k : Slot) (s : State) : Prop where
  time : s.cfg.time = .tickAccurate
  one_le : 1 ≤ s.cfg.halfBitTicks
  fits : s.cfg.halfBitTicks ≤ 65536
  stalled : s.c.stalledC = false
  unsel : s.c.unselC = false
  rdy : s.c.rdy = false
  sel : s.selected k = true
  other : s.selected (~~~k) = false

theorem FrameTicking.congr {k : Slot} {s t : State} (h : FrameTicking k s) (hcfg : t.cfg = s.cfg)
    (hcs : t.c.csN = s.c.csN) (hstall : t.c.stalledC = s.c.stalledC) (hunsel : t.c.unselC = s.c.unselC)
    (hrdy : t.c.rdy = s.c.rdy) : FrameTicking k t := by
  obtain ⟨h1, h2, h3, h4, h5, h6, h7, h8⟩ := h
  exact ⟨by rwa [hcfg], by rwa [hcfg], by rwa [hcfg], by rwa [hstall], by rwa [hunsel], by rwa [hrdy],
    by rwa [selected_congr k hcfg hcs], by rwa [selected_congr _ hcfg hcs]⟩

/-- FSEQ is in a half bit with `n` half bits after it in the frame: the leading half of a bit is followed by its trailing
half. -/
def HalvesAfter (n : Nat) (c : CNode) : Prop :=
  1 ≤ c.bitcntC.toNat ∧ (c.fsState = FS_DRIVE ∧ n = 2 * (c.bitcntC.toNat - 1) + 1
    ∨ c.fsState = FS_SAMPLE ∧ n = 2 * (c.bitcntC.toNat - 1))

/-- The frame needs `n` more ticks to shift its bits: those of the half bits after this one, and those left of this one. -/
def TicksLeft (n : Nat) (s : State) : Prop :=
  (∃ m, HalvesAfter m s.c ∧ n = m * s.cfg.halfBitTicks + s.c.divcntC.toNat + 1) ∨ (s.c.fsState = FS_COMPLETE ∧ n = 0)

/-- `DIVCNT_C` is reloaded for a half bit of `HALF_BIT_TICKS` ticks. -/
theorem divReload_toNat {s : State} (h1 : 1 ≤ s.cfg.halfBitTicks) (hfits : s.cfg.halfBitTicks ≤ 65536) :
    s.divReload.toNat + 1 = s.cfg.halfBitTicks := by
  rw [State.divReload, BitVec.toNat_ofNat, Nat.mod_eq_of_lt (by omega)]
  omega

/-- A count above 0 loses one. -/
theorem toNat_pred {w : Nat} {x : BitVec w} (h : x ≠ 0#w) (hw : 1 < 2 ^ w) : (x - 1#w).toNat + 1 = x.toNat := by
  have hpos : x.toNat ≠ 0 := fun e => h (BitVec.eq_of_toNat_eq (by simpa using e))
  have hone : (1#w).toNat = 1 := by rw [BitVec.toNat_ofNat, Nat.mod_eq_of_lt hw]
  rw [BitVec.toNat_sub_of_le (BitVec.le_def.mpr (by omega)), hone]
  omega

section step
variable {k : Slot} {s : State} (h : FrameTicking k s)
include h

theorem FrameTicking.fseqStep_drive (hst : s.c.fsState = FS_DRIVE) : fseqStep s = fsDrive s := by
  rw [FseqWord.drive.tick hst, fseqAt_of_state _ h.stalled hst]

theorem FrameTicking.fseqStep_sample (hst : s.c.fsState = FS_SAMPLE) : fseqStep s = fsSample s := by
  rw [FseqWord.sample.tick hst, fseqAt_of_state _ h.stalled hst]

/-- A tick inside a half bit. -/
theorem FrameTicking.tick_inside {m : Nat} (hm : HalvesAfter m s.c) (hd : s.c.divcntC ≠ 0#16) :
    FrameTicking k (fseqStep s) ∧ HalvesAfter m (fseqStep s).c ∧ (fseqStep s).cfg = s.cfg
      ∧ (fseqStep s).c.divcntC = s.c.divcntC - 1#16 := by
  have hgo := halfBit_goes_on h.time hd
  obtain ⟨hb, ⟨hst, hn⟩ | ⟨hst, hn⟩⟩ := hm
  · rw [h.fseqStep_drive hst, fsDrive_tick hgo]
    exact ⟨h.congr rfl rfl rfl rfl rfl, ⟨hb, .inl ⟨hst, hn⟩⟩, rfl, rfl⟩
  · rw [h.fseqStep_sample hst, fsSample_tick hgo]
    exact ⟨h.congr rfl rfl rfl rfl rfl, ⟨hb, .inr ⟨hst, hn⟩⟩, rfl, rfl⟩

/-- The last tick of a half bit with a half bit after it. -/
theorem FrameTicking.tick_half {m : Nat} (hm : HalvesAfter (m + 1) s.c) (hd : s.c.divcntC = 0#16) :
    FrameTicking k (fseqStep s) ∧ HalvesAfter m (fseqStep s).c ∧ (fseqStep s).cfg = s.cfg
      ∧ (fseqStep s).c.divcntC = s.divReload := by
  have hend := halfBit_ends (.inr hd)
  obtain ⟨hb, ⟨hst, hn⟩ | ⟨hst, hn⟩⟩ := hm
  · rw [h.fseqStep_drive hst, fsDrive_exchanges hend h.sel h.other]
    refine ⟨h.congr (by simp) (by simp) (by simp) (by simp) (by simp), ?_, by simp, by simp⟩
    rw [setRnode_c]
    exact ⟨hb, .inr ⟨rfl, by simpa using hn⟩⟩
  · have hne : s.c.bitcntC ≠ 1#4 := fun e => by simp [e] at hn
    have hb' : 1 ≤ (s.c.bitcntC - 1#4).toNat ∧ m = 2 * ((s.c.bitcntC - 1#4).toNat - 1) + 1 := by
      have hpred := toNat_pred (x := s.c.bitcntC) (by rintro e; simp [e] at hb) (by decide)
      have hne' : s.c.bitcntC.toNat ≠ 1 := fun e => hne (BitVec.eq_of_toNat_eq e)
      omega
    rw [h.fseqStep_sample hst, fsSample_nextBit hend hne]
    exact ⟨h.congr rfl rfl rfl rfl rfl, ⟨hb'.1, .inl ⟨rfl, hb'.2⟩⟩, rfl, rfl⟩

/-- The last tick of the last half bit. -/
theorem FrameTicking.tick_last (hm : HalvesAfter 0 s.c) (hd : s.c.divcntC = 0#16) :
    FrameTicking k (fseqStep s) ∧ (fseqStep s).c.fsState = FS_COMPLETE := by
  obtain ⟨hb, ⟨hst, hn⟩ | ⟨hst, hn⟩⟩ := hm
  · cases hn
  · have hone : s.c.bitcntC = 1#4 := BitVec.eq_of_toNat_eq (show _ = 1 by omega)
    rw [h.fseqStep_sample hst, fsSample_lastBit (halfBit_ends (.inr hd)) hone]
    exact ⟨h.congr rfl rfl rfl rfl rfl, rfl⟩

/-- A tick takes one off the ticks left. -/
theorem FrameTicking.step {n : Nat} (hn : TicksLeft (n + 1) s) : FrameTicking k (fseqStep s) ∧ TicksLeft n (fseqStep s) := by
  rcases hn with ⟨m, hm, hn⟩ | ⟨_, hn⟩
  · by_cases hd : s.c.divcntC = 0#16
    · rw [hd] at hn
      cases m with
      | zero =>
        obtain ⟨ht, hst⟩ := h.tick_last hm hd
        exact ⟨ht, .inr ⟨hst, by simpa using hn⟩⟩
      | succ m =>
        obtain ⟨ht, hm', hcfg, hdiv⟩ := h.tick_half hm hd
        refine ⟨ht, .inl ⟨m, hm', ?_⟩⟩
        have hreload := divReload_toNat h.one_le h.fits
        rw [hcfg, hdiv, Nat.add_assoc, hreload, ← Nat.succ_mul]
        simpa using hn
    · obtain ⟨ht, hm', hcfg, hdiv⟩ := h.tick_inside hm hd
      refine ⟨ht, .inl ⟨m, hm', ?_⟩⟩
      have hpred := toNat_pred hd (by decide)
      rw [hcfg, hdiv]
      omega
  · cases hn

end step

/-- `m` ticks take `m` off the ticks left. -/
theorem FrameTicking.ticks {k : Slot} {n : Nat} (m : Nat) {s : State} (h : FrameTicking k s) (hn : TicksLeft (n + m) s) :
    FrameTicking k (fseqTicks m s) ∧ TicksLeft n (fseqTicks m s) := by
  induction m generalizing s with
  | zero => exact ⟨h, hn⟩
  | succ m ih =>
    obtain ⟨ht, hn'⟩ := h.step hn
    exact ih ht hn'

theorem fseqTicks_succ (n : Nat) (s : State) : fseqTicks (n + 1) s = fseqStep (fseqTicks n s) := by
  induction n generalizing s with
  | zero => rfl
  | succ n ih => exact ih (fseqStep s)

theorem TicksLeft.not_idle {n : Nat} {s : State} (h : TicksLeft n s) : s.c.fsState ≠ FS_IDLE := by
  rcases h with ⟨m, ⟨_, ⟨hst, _⟩ | ⟨hst, _⟩⟩, _⟩ | ⟨hst, _⟩ <;> rw [hst] <;> decide

/-- Settles O16: 16 half bits are left at the write, every tick takes one tick off them, and with none left FSEQ is about to
complete. -/
theorem frameLastsSixteenHalfBitsAndOneTick : Obligations.FrameLastsSixteenHalfBitsAndOneTick := by
  unfold Obligations.FrameLastsSixteenHalfBitsAndOneTick
  intro s k ht h1 hfits hstall hunsel hst hbits hdiv hrdy hsel hother
  have h : FrameTicking k s := ⟨ht, h1, hfits, hstall, hunsel, hrdy, hsel, hother⟩
  have hleft : TicksLeft (16 * s.cfg.halfBitTicks) s := by
    refine .inl ⟨15, ⟨by simp [hbits], .inl ⟨hst, by simp [hbits]⟩⟩, ?_⟩
    have hreload : s.c.divcntC.toNat + 1 = s.cfg.halfBitTicks := by rw [hdiv]; exact divReload_toNat h1 hfits
    omega
  refine ⟨fun n hn => ?_, ?_⟩
  · obtain ⟨ht', hn'⟩ := h.ticks (n := 16 * s.cfg.halfBitTicks - n) n (by rwa [Nat.sub_add_cancel hn])
    exact ⟨hn'.not_idle, ht'.rdy⟩
  · obtain ⟨ht', hn'⟩ := h.ticks (n := 0) (16 * s.cfg.halfBitTicks) (by rwa [Nat.zero_add])
    rw [fseqTicks_succ]
    generalize fseqTicks (16 * s.cfg.halfBitTicks) s = t at ht' hn'
    rcases hn' with ⟨_, _, hn⟩ | ⟨hst', -⟩
    · cases hn
    · rw [FseqWord.complete.tick hst', fseqAt_of_state _ ht'.stalled hst', fsComplete_completes (by simp [ht'.unsel])]
      exact ⟨rfl, rfl⟩

end Machine
end Sys2Proof
end

section
/-! The exchange of two bytes by a frame (spec/40_transport.md R108), and the reply phase of a poll built on it
(spec/42_poll_fsm.md R168, spec/70_reset_and_hazards.md R262), where time is abstract and nothing interleaves. -/

namespace Sys2Proof
namespace Machine

-- The state with node `C` and one responder replaced

/-- `s` with `c` as node `C` and `r` as node `R_k`. -/
def State.withNodes (s : State) (c : CNode) (k : Slot) (r : RNode) : State := ({ s with c := c } : State).setRnode k r

section withNodes
variable (s : State) (c c' : CNode) (k j : Slot) (r r' : RNode) (f : CNode → CNode)

@[simp] theorem withNodes_c : (s.withNodes c k r).c = c := setRnode_c ..
@[simp] theorem withNodes_cfg : (s.withNodes c k r).cfg = s.cfg := setRnode_cfg ..
@[simp] theorem withNodes_rnode_self : (s.withNodes c k r).rnode k = r := setRnode_rnode_self ..
@[simp] theorem withNodes_rnode_other : (s.withNodes c k r).rnode (~~~k) = s.rnode (~~~k) := setRnode_rnode_other ..
@[simp] theorem withNodes_mapC : (s.withNodes c k r).mapC f = s.withNodes (f c) k r := by
  rcases slot_cases k with rfl | rfl <;> rfl
@[simp] theorem withNodes_setRnode : (s.withNodes c k r).setRnode k r' = s.withNodes c k r' := setRnode_setRnode ..
@[simp] theorem withNodes_withNodes : (s.withNodes c k r).withNodes c' k r' = s.withNodes c' k r' := by
  rcases slot_cases k with rfl | rfl <;> rfl
@[simp] theorem withNodes_self : s.withNodes s.c k (s.rnode k) = s := setRnode_rnode_eq s k

theorem withNodes_selected (h : c.csN = s.c.csN) : (s.withNodes c k r).selected j = s.selected j :=
  selected_congr j (by simp) (by simpa using h)

end withNodes

/-- Operations run one by one. -/
theorem runOps_cons {i : Instr} {is : List Instr} {s t : State} {x : Result} (h : exec i s = .next t)
    (hx : runOps is t = x) : runOps (i :: is) s = x := by
  rw [runOps, h]; exact hx

-- Two shift registers in a ring

/-- Both shift registers take in the other's top bit. -/
def exchangeBit (p : Byte × Byte) : Byte × Byte := (shiftIn p.1 (p.2.getLsbD 7), shiftIn p.2 (p.1.getLsbD 7))

theorem shiftIn_getLsbD_zero (v : Byte) (b : Bool) : (shiftIn v b).getLsbD 0 = b :=
  (BitVec.getLsbD_append (x := v.extractLsb' 0 7) (y := BitVec.ofBool b) (i := 0)).trans (by simp)

theorem shiftIn_getLsbD_succ (v : Byte) (b : Bool) {i : Nat} (h : i < 7) :
    (shiftIn v b).getLsbD (i + 1) = v.getLsbD i :=
  (BitVec.getLsbD_append (x := v.extractLsb' 0 7) (y := BitVec.ofBool b) (i := i + 1)).trans (by simp [h])

/-- Bit `i` of a register that held `v` once it has taken in `n` bits of `w`, top bit first. -/
def takenIn (v w : Byte) (n i : Nat) : Bool := if i < n then w.getLsbD (8 - n + i) else v.getLsbD (i - n)

theorem takenIn_succ {v w v' w' : Byte} {n : Nat} (hn : n < 8) (hv : ∀ i < 8, v'.getLsbD i = takenIn v w n i)
    (hw : ∀ i < 8, w'.getLsbD i = takenIn w v n i) {i : Nat} (hi : i < 8) :
    (shiftIn v' (w'.getLsbD 7)).getLsbD i = takenIn v w (n + 1) i := by
  cases i with
  | zero =>
    rw [shiftIn_getLsbD_zero, hw 7 (by decide), takenIn, takenIn, if_neg (by omega), if_pos (by omega)]
    congr 1; omega
  | succ i =>
    rw [shiftIn_getLsbD_succ v' _ (by omega), hv i (by omega)]
    simp only [takenIn, Nat.add_lt_add_iff_right]
    split <;> congr 1 <;> omega

theorem exchangeBit_iterate (p : Byte × Byte) {n : Nat} (hn : n ≤ 8) :
    (∀ i < 8, (exchangeBit^[n] p).1.getLsbD i = takenIn p.1 p.2 n i)
      ∧ ∀ i < 8, (exchangeBit^[n] p).2.getLsbD i = takenIn p.2 p.1 n i := by
  induction n with
  | zero => simp [takenIn]
  | succ n ih =>
    obtain ⟨h1, h2⟩ := ih (by omega)
    rw [Function.iterate_succ_apply']
    exact ⟨fun i hi => takenIn_succ hn h1 h2 hi, fun i hi => takenIn_succ hn h2 h1 hi⟩

/-- After eight bits the two registers have exchanged their bytes. -/
theorem exchangeBit_eight (p : Byte × Byte) : exchangeBit^[8] p = (p.2, p.1) := by
  obtain ⟨h1, h2⟩ := exchangeBit_iterate p (le_refl 8)
  have hall {v w x : Byte} (h : ∀ i < 8, x.getLsbD i = takenIn v w 8 i) : x = w :=
    BitVec.eq_of_getLsbD_eq fun i hi => by rw [h i hi, takenIn, if_pos hi, Nat.sub_self, Nat.zero_add]
  exact Prod.ext (hall h1) (hall h2)

-- One bit

/-- FSEQ is about to drive a bit and `n` bits follow it, counted alike on both sides; time is abstract and `R_k` alone is
selected. -/
structure BitsAfter (k : Slot) (n : Nat) (s : State) : Prop where
  time : s.cfg.time = .timeAbstract
  stalled : s.c.stalledC = false
  state : s.c.fsState = FS_DRIVE
  sel : s.selected k = true
  other : s.selected (~~~k) = false
  bitsC : s.c.bitcntC.toNat = n + 1
  bitsR : (s.rnode k).bitcntR.toNat + n = 7

/-- Both halves of a bit, up to the count of the bit: the two registers exchange a bit. -/
def State.bitExchanged (s : State) (k : Slot) : State :=
  s.withNodes { s.c with
      sck := s.driveLevel, mosi := s.c.srC.getLsbD 7, srC := (exchangeBit (s.c.srC, (s.rnode k).srR)).1,
      divcntC := s.divReload, fsState := FS_SAMPLE } k
    ((s.rnode k).shift (s.c.srC.getLsbD 7))

section bit
variable {k : Slot} {n : Nat} {s : State}

theorem BitsAfter.drive (h : BitsAfter k n s) : exec .fsDrive s = .next (s.bitExchanged k) := by
  rw [exec_fsDrive h.stalled h.state, fsDrive_exchanges (halfBit_ends (.inl h.time)) h.sel h.other]
  rfl

theorem BitsAfter.sample_halfBit_ends (h : BitsAfter k n s) :
    ((s.bitExchanged k).counting && (s.bitExchanged k).c.divcntC != 0#16) = false :=
  halfBit_ends (.inl (by simpa [State.bitExchanged] using h.time))

/-- A bit that is not the last, counted on both sides. -/
def State.bitCounted (s : State) (k : Slot) : State :=
  s.withNodes { s.c with
      sck := !s.driveLevel, mosi := s.c.srC.getLsbD 7, srC := (exchangeBit (s.c.srC, (s.rnode k).srR)).1,
      bitcntC := s.c.bitcntC - 1#4, divcntC := s.divReload, fsState := FS_DRIVE } k
    { s.rnode k with srR := (exchangeBit (s.c.srC, (s.rnode k).srR)).2, bitcntR := (s.rnode k).bitcntR + 1#4 }

/-- Node `C` after the last `n` bits of a frame, `mosi` the level left on the wire. -/
def State.bitsEndedC (s : State) (k : Slot) (n : Nat) (mosi : Bool) : CNode :=
  { s.c with sck := !s.driveLevel, mosi := mosi, srC := (exchangeBit^[n] (s.c.srC, (s.rnode k).srR)).1,
             bitcntC := 0#4, divcntC := s.divReload, fsState := FS_COMPLETE }

/-- The responder after the last `n` bits of a frame, completed. -/
def State.bitsEndedR (s : State) (k : Slot) (n : Nat) : RNode :=
  RNode.complete { s.rnode k with srR := (exchangeBit^[n] (s.c.srC, (s.rnode k).srR)).2, bitcntR := 0#4 }

/-- The state after the last `n` bits of a frame. -/
def State.bitsEnded (s : State) (k : Slot) (n : Nat) (mosi : Bool) : State :=
  s.withNodes (s.bitsEndedC k n mosi) k (s.bitsEndedR k n)

theorem BitsAfter.sample (h : BitsAfter k n s) :
    exec .fsSample (s.bitExchanged k) = .next (fsSample (s.bitExchanged k)) :=
  exec_fsSample (by simpa [State.bitExchanged] using h.stalled) (by simp [State.bitExchanged])

/-- The last bit completes the frame on the responder's side and ends it on C's. -/
theorem BitsAfter.last (h : BitsAfter k 0 s) :
    runOps (bitOps 1) s = .next (s.bitsEnded k 1 (s.c.srC.getLsbD 7)) := by
  have hone : (s.bitExchanged k).c.bitcntC = 1#4 := by
    simpa [State.bitExchanged] using BitVec.eq_of_toNat_eq h.bitsC
  have hseven : (s.rnode k).bitcntR = 7#4 := BitVec.eq_of_toNat_eq h.bitsR
  refine runOps_cons h.drive (runOps_singleton (h.sample.trans (congrArg _ ?_)))
  rw [fsSample_lastBit h.sample_halfBit_ends hone, State.bitExchanged, withNodes_mapC, shift_of_bitcntR_eq _ hseven]
  simp [State.bitsEnded, State.bitsEndedC, State.bitsEndedR, State.driveLevel, exchangeBit]

theorem BitsAfter.next_runs (h : BitsAfter k (n + 1) s) (is : List Instr) :
    runOps (.fsDrive :: .fsSample :: is) s = runOps is (s.bitCounted k) := by
  have hne : (s.bitExchanged k).c.bitcntC ≠ 1#4 := fun e => by
    have := h.bitsC
    rw [show s.c.bitcntC = 1#4 by simpa [State.bitExchanged] using e] at this
    simp at this
  have hne7 : (s.rnode k).bitcntR ≠ 7#4 := fun e => by
    have := h.bitsR
    rw [e] at this
    simp at this
  refine runOps_cons h.drive (runOps_cons (h.sample.trans (congrArg _ ?_)) rfl)
  rw [fsSample_nextBit h.sample_halfBit_ends hne, State.bitExchanged, withNodes_mapC, shift_of_bitcntR_ne _ hne7]
  simp [State.bitCounted, State.driveLevel, State.divReload, exchangeBit]

theorem BitsAfter.next (h : BitsAfter k (n + 1) s) : BitsAfter k n (s.bitCounted k) := by
  obtain ⟨ht, hst, -, hsel, hoth, hC, hR⟩ := h
  have hsucc := BitVec.toNat_add (s.rnode k).bitcntR 1#4
  have hpred := toNat_pred (x := s.c.bitcntC) (by rintro e; simp [e] at hC) (by decide)
  have hkept (j : Slot) : (s.bitCounted k).selected j = s.selected j := by
    rw [State.bitCounted]
    exact withNodes_selected _ _ _ _ _ rfl
  refine ⟨by simpa [State.bitCounted] using ht, by simpa [State.bitCounted] using hst, by simp [State.bitCounted],
    (hkept k).trans hsel, (hkept _).trans hoth, ?_, ?_⟩
  · simp only [State.bitCounted, withNodes_c]; omega
  · simp only [State.bitCounted, withNodes_rnode_self, hsucc, BitVec.toNat_ofNat]; omega

theorem bitCounted_bitsEnded (mosi : Bool) : (s.bitCounted k).bitsEnded k n mosi = s.bitsEnded k (n + 1) mosi := by
  simp [State.bitCounted, State.bitsEnded, State.bitsEndedC, State.bitsEndedR, State.driveLevel, State.divReload]

/-- The bits of a frame from any bit on. -/
theorem BitsAfter.runOps_bitOps (h : BitsAfter k n s) :
    ∃ mosi, runOps (bitOps (n + 1)) s = .next (s.bitsEnded k (n + 1) mosi) := by
  induction n generalizing s with
  | zero => exact ⟨_, h.last⟩
  | succ n ih =>
    obtain ⟨mosi, hrun⟩ := ih h.next
    exact ⟨mosi, (h.next_runs _).trans (hrun.trans (congrArg _ (bitCounted_bitsEnded mosi)))⟩

end bit

-- The frame (R108)

/-- A frame is about to send its first bit to `R_k`, the only selected responder, which is at no bit; time is abstract. -/
structure FrameAhead (k : Slot) (s : State) : Prop where
  time : s.cfg.time = .timeAbstract
  stalled : s.c.stalledC = false
  unsel : s.c.unselC = false
  state : s.c.fsState = FS_DRIVE
  bitsC : s.c.bitcntC = 8#4
  sel : s.selected k = true
  other : s.selected (~~~k) = false
  bitsR : (s.rnode k).bitcntR = 0#4

section frame
variable {k : Slot} {s : State}

/-- Node `C` after a whole frame: it holds the responder's byte. -/
def State.frameEndedC (s : State) (k : Slot) (mosi : Bool) : CNode :=
  { s.c with sck := s.cfg.cpol, mosi := mosi, srC := (s.rnode k).srR, bitcntC := 0#4, divcntC := s.divReload,
             rxbufC := (s.rnode k).srR, rdy := true, busy := false, fsState := FS_IDLE }

/-- The responder after a whole frame: it has completed C's byte. -/
def State.frameEndedR (s : State) (k : Slot) : RNode :=
  RNode.complete { s.rnode k with srR := s.c.srC, bitcntR := 0#4 }

theorem FrameAhead.runOps_frameOps (h : FrameAhead k s) :
    ∃ mosi, runOps frameOps s = .next (s.withNodes (s.frameEndedC k mosi) k (s.frameEndedR k)) := by
  have hbits : BitsAfter k 7 s :=
    ⟨h.time, h.stalled, h.state, h.sel, h.other, by simp [h.bitsC], by simp [h.bitsR]⟩
  obtain ⟨mosi, hrun⟩ := hbits.runOps_bitOps
  refine ⟨mosi, ?_⟩
  have hC : (s.bitsEnded k 8 mosi).c = s.bitsEndedC k 8 mosi := withNodes_c ..
  rw [frameOps, runOps_append hrun]
  refine runOps_singleton ?_
  rw [exec_fsComplete (by rw [hC]; exact h.stalled) (by rw [hC]; rfl),
    fsComplete_completes (fun e => by rw [hC] at e; exact absurd (e.1.symm.trans h.unsel) (by decide)),
    State.bitsEnded, withNodes_mapC]
  simp [State.bitsEndedC, State.bitsEndedR, State.frameEndedC, State.frameEndedR, CNode.completeFrame,
    exchangeBit_eight]

end frame

/-- Settles O15. -/
theorem frameExchangesTheTwoBytes : Obligations.FrameExchangesTheTwoBytes := by
  unfold Obligations.FrameExchangesTheTwoBytes
  intro s k ht hst hun hfs hb hsel hoth hr
  obtain ⟨mosi, hrun⟩ := FrameAhead.runOps_frameOps ⟨ht, hst, hun, hfs, hb, hsel, hoth, hr⟩
  refine ⟨_, hrun, ?_⟩
  simp only [withNodes_c, withNodes_rnode_self, withNodes_rnode_other, State.frameEndedC, State.frameEndedR]
  cases hf : (s.rnode k).rxf with
  | false => rw [complete_of_not_rxf rfl]; simp
  | true => rw [complete_of_rxf rfl]; simp [RNode.raise]

-- The reply phase of a poll, from the deselect after the data frame to the display of the reply (R157–R163)

/-- The line of a slot goes high and low again. -/
theorem csN_deassert_assert : ∀ (n : BitVec 2) (k : Slot), csLine n k = false →
    (n ||| lineMask k) &&& ~~~lineMask k = n := by decide

/-- POLL is about to deselect `R_k` after its data frame; `R_k` alone is selected and FSEQ is idle; time is abstract. -/
structure ReplyAhead (k : Slot) (s : State) : Prop where
  time : s.cfg.time = .timeAbstract
  slotExists : s.cfg.hasSlot k = true
  pState : s.c.pState = P_DESELECT
  slot : s.c.slot = k
  csState : s.c.csState = CS_STABLE
  stalled : s.c.stalledC = false
  fsState : s.c.fsState = FS_IDLE
  busy : s.c.busy = false
  sel : s.selected k = true
  other : s.selected (~~~k) = false

section turn
variable (s : State) {c : CNode} {k : Slot} (r : RNode)

theorem deselect_withNodes (hp : c.pState = P_DESELECT) (hs : c.csState = CS_STABLE) (hslot : c.slot = k)
    (hb : c.busy = false) (hlow : csLine c.csN k = false) :
    exec .pollDeselect (s.withNodes c k r) = .next (s.withNodes
      { c with csN := c.csN ||| lineMask k, settleCnt := BitVec.ofNat 32 s.cfg.settleTicks, csState := CS_SETTLING,
               pState := P_SETTLE } k r) := by
  subst hslot
  rw [exec_pollDeselect (by simpa using hp), pollDeselect, pollWhen_stable _ (by simpa using hs),
    csDeassert_stable (by simpa using hs), withNodes_c, deassertLine_low (by simpa using hlow)]
  simp [goP, inFrame_eq, hb]

theorem csedge_withNodes (hk : s.cfg.hasSlot k = true) (hr : r.bitcntR = 0#4) {csn : Bool}
    (hline : csLine c.csN k = csn) :
    exec (.rsCsedge k) (s.withNodes c k r) = .next (s.withNodes c k { r with csSeen := csn }) := by
  rw [exec_rsCsedge (by simpa using hk), withNodes_c, withNodes_rnode_self, withNodes_setRnode, hline]
  by_cases hedge : r.csSeen = false ∧ csn = true
  · obtain ⟨hseen, rfl⟩ := hedge
    rw [csedge_deselect hseen, if_pos hr, ← hr]
  · rw [csedge_other hedge]

theorem deliver_withNodes (ht : s.cfg.time = .timeAbstract) (hs : c.csState = CS_SETTLING) :
    exec (.evDeliver (some .csmux)) (s.withNodes c k r) =
      .next (s.withNodes { c with settleCnt := 0#32, csState := CS_STABLE } k r) := by
  have hcount : (s.withNodes c k r).counting = false := counting_of_timeAbstract (by simpa using ht)
  rw [exec, execEvDeliver, evDeliver, hcount, if_neg (by decide)]
  simp [endDelay, hs]

theorem settle_withNodes (hp : c.pState = P_SETTLE) (hs : c.csState = CS_STABLE) :
    exec .pollSettle (s.withNodes c k r) = .next (s.withNodes { c with pState := P_RESELECT } k r) := by
  rw [exec_pollSettle (by simpa using hp), pollSettle, pollWhen_stable _ (by simpa using hs), goP, withNodes_mapC]

theorem reselect_withNodes (hp : c.pState = P_RESELECT) (hs : c.csState = CS_STABLE) (hslot : c.slot = k)
    (hb : c.busy = false) (hother : (s.withNodes c k r).selected (~~~k) = false) :
    exec .pollReselect (s.withNodes c k r) =
      .next (s.withNodes { c with csN := c.csN &&& ~~~lineMask k, pState := P_TXSENT } k r) := by
  subst hslot
  rw [exec_pollReselect (by simpa using hp), pollReselect, pollWhen_stable _ (by simpa using hs),
    csAssert_stable (by simpa using hs), withNodes_c, assertLine_drives hother]
  simp [goP, inFrame_eq, hb]

theorem txsent_withNodes (hp : c.pState = P_TXSENT) (hf : c.fsState = FS_IDLE) (hb : c.busy = false) :
    exec .pollTxsent (s.withNodes c k r) = .next (s.withNodes
      { c with srC := s.cfg.sentinel, bitcntC := 8#4, divcntC := s.divReload, unselC := false, rdy := false,
               busy := true, fsState := FS_DRIVE, pState := P_WAITREPLY } k r) := by
  rw [exec_pollTxsent (by simpa using hp), pollTxsent,
    fsBufw_starts _ (by rw [withNodes_c, hf]; decide) (by simpa using hb), withNodes_cfg, goP, withNodes_mapC,
    withNodes_mapC, State.divReload, withNodes_cfg, State.divReload]

theorem waitreply_withNodes (hp : c.pState = P_WAITREPLY) (hr : c.rdy = true) :
    exec .pollWaitreply (s.withNodes c k r) = .next (s.withNodes { c with pState := P_RECEIVE } k r) := by
  rw [exec_pollWaitreply (by simpa using hp), pollWaitreply, pollWhen_true _ (by simpa using hr), goP, withNodes_mapC]

theorem receive_withNodes (hp : c.pState = P_RECEIVE) :
    exec .pollReceive (s.withNodes c k r) =
      .next (s.withNodes { c with rdy := false, reply := c.rxbufC, pState := P_DISPLAY } k r) := by
  rw [exec_pollReceive (by simpa using hp), pollReceive, goP, withNodes_mapC, withNodes_mapC, CNode.bufr]

theorem display_withNodes (hp : c.pState = P_DISPLAY) :
    exec .pollDisplay (s.withNodes c k r) =
      .next (s.withNodes { c with ledC := if (s.cfg.slot c.slot).display then c.reply else c.ledC, pState := P_NEXT }
        k r) := by
  rw [exec_pollDisplay (by simpa using hp)]
  cases hd : (s.cfg.slot c.slot).display with
  | true => rw [pollDisplay_shows (by simpa using hd), withNodes_mapC, if_pos rfl]
  | false => rw [pollDisplay_hidden (by simpa using hd), goP, withNodes_mapC, if_neg (by decide)]

end turn

section reply
variable {s : State} {k : Slot} (h : ReplyAhead k s) (r : RNode) (hr : r.bitcntR = 0#4)

/-- Node `C` once the reply frame has started: the sentinel is in its shift register. -/
def State.replyStartedC (s : State) : CNode :=
  { s.c with settleCnt := 0#32, srC := s.cfg.sentinel, bitcntC := 8#4, divcntC := s.divReload, unselC := false,
             rdy := false, busy := true, fsState := FS_DRIVE, pState := P_WAITREPLY }

/-- The responder after the reply frame: it has seen its line go high and low, and has completed the sentinel. -/
def RNode.replied (r : RNode) (sentinel : Byte) : RNode :=
  RNode.complete { r with csSeen := false, srR := sentinel, bitcntR := 0#4 }

/-- Node `C` after the reply phase, where `reply` is the byte received. -/
def State.replyEndedC (s : State) (reply : Byte) (mosi : Bool) : CNode :=
  { s.c with settleCnt := 0#32, sck := s.cfg.cpol, mosi := mosi, srC := reply, bitcntC := 0#4, divcntC := s.divReload,
             unselC := false, rxbufC := reply, rdy := false, busy := false, fsState := FS_IDLE, reply := reply,
             ledC := if (s.cfg.slot s.c.slot).display then reply else s.c.ledC, pState := P_NEXT }

include h hr

/-- The turnaround between the two frames: the select line goes high and low again. -/
theorem ReplyAhead.runOps_turnaround (is : List Instr) :
    runOps ([.pollDeselect, .rsCsedge k, .evDeliver (some .csmux), .pollSettle, .pollReselect, .rsCsedge k,
      .pollTxsent] ++ is) (s.withNodes s.c k r) = runOps is (s.withNodes s.replyStartedC k { r with csSeen := false }) := by
  obtain ⟨ht, hk, hp, hslot, hcs, -, hfs, hb, hsel, hoth⟩ := h
  have hlow : csLine s.c.csN k = false := by simpa [State.selected, hk] using hsel
  have hhigh : csLine (s.c.csN ||| lineMask k) k = true := by simp [csLine_deassert]
  have hback := csN_deassert_assert _ _ hlow
  refine runOps_cons (deselect_withNodes s r hp hcs hslot hb hlow) ?_
  refine runOps_cons (csedge_withNodes s r hk hr hhigh) ?_
  refine runOps_cons (deliver_withNodes s _ ht rfl) ?_
  refine runOps_cons (settle_withNodes s _ rfl rfl) ?_
  refine runOps_cons (reselect_withNodes s _ rfl rfl hslot hb ?_) ?_
  · simpa [State.selected, csLine_deassert] using hoth
  simp only [hback]
  refine runOps_cons (csedge_withNodes s { r with csSeen := true } hk hr hlow) ?_
  refine runOps_cons (txsent_withNodes s _ rfl hfs hb) ?_
  simp [State.replyStartedC, hcs]

/-- The whole reply phase: C receives and keeps the byte the responder held, the responder completes the sentinel. -/
theorem ReplyAhead.runOps_reply : ∃ mosi,
    runOps ([.pollDeselect, .rsCsedge k, .evDeliver (some .csmux), .pollSettle, .pollReselect, .rsCsedge k,
      .pollTxsent] ++ frameOps ++ [.pollWaitreply, .pollReceive, .pollDisplay]) (s.withNodes s.c k r)
      = .next (s.withNodes (s.replyEndedC r.srR mosi) k (r.replied s.cfg.sentinel)) := by
  have hframe : FrameAhead k (s.withNodes s.replyStartedC k { r with csSeen := false }) :=
    ⟨by simpa using h.time, by simpa [State.replyStartedC] using h.stalled, by simp [State.replyStartedC], by simp [State.replyStartedC],
      by simp [State.replyStartedC], (withNodes_selected s s.replyStartedC _ _ _ rfl).trans h.sel,
      (withNodes_selected s s.replyStartedC _ _ _ rfl).trans h.other, by simpa using hr⟩
  obtain ⟨mosi, hrun⟩ := hframe.runOps_frameOps
  refine ⟨mosi, ?_⟩
  rw [List.append_assoc, h.runOps_turnaround r hr, runOps_append hrun, withNodes_withNodes]
  refine runOps_cons (waitreply_withNodes s _ (by simp [State.frameEndedC, State.replyStartedC]) rfl) ?_
  refine runOps_cons (receive_withNodes s _ rfl) ?_
  refine runOps_singleton ((display_withNodes s _ rfl).trans ?_)
  simp [State.frameEndedC, State.frameEndedR, State.replyStartedC, State.replyEndedC, RNode.replied, State.divReload]

end reply

/-- Settles O60: the byte is still unread, so the reply frame's completion loses the sentinel with OVF. -/
theorem unservicedReplyIsTheByteLeftInTheShiftRegister :
    Obligations.UnservicedReplyIsTheByteLeftInTheShiftRegister := by
  unfold Obligations.UnservicedReplyIsTheByteLeftInTheShiftRegister
  intro s k ht hk hp hslot hcs hst hfs hb hsel hoth hrxf hr
  obtain ⟨mosi, hrun⟩ :=
    ReplyAhead.runOps_reply ⟨ht, hk, hp, hslot, hcs, hst, hfs, hb, hsel, hoth⟩ (s.rnode k) hr
  rw [withNodes_self] at hrun
  refine ⟨_, hrun, ?_⟩
  rw [withNodes_c, withNodes_rnode_self, RNode.replied, complete_of_rxf (by simpa using hrxf)]
  simp [State.replyEndedC, RNode.raise]

/-- A counter responder after the service of a data byte: the byte is shown and the counter staged. -/
def RNode.dataServed (r : RNode) : RNode :=
  { r with rxf := false, ledR := r.rxbufR, srR := r.counter, irqfRx := false }

/-- The service of a data byte alone, from its interrupt entry to the return (R182, R183, R185). -/
theorem service_data {r : RNode} (cfg : Config) {sc : SlotConfig} (hv : sc.variant = .counterDisplay)
    (hidle : r.rState = R_IDLE) (hirq : r.irqfRx = true) (hedge : r.edgeF = false) (hr : r.bitcntR = 0#4) :
    RNode.service { r with rState := R_SERVICE } cfg sc = r.dataServed := by
  have hnoEdge : RNode.serviceEdge { r with rState := R_SERVICE } sc.variant = { r with rState := R_SERVICE } :=
    if_neg (by simp [hedge])
  rw [RNode.service, hnoEdge, serviceRx_display (r := { r with rState := R_SERVICE }) cfg hirq hv,
    hRxDisplay_stages (r := { r with rState := R_SERVICE }) hr, RNode.leaveService, RNode.dataServed, ← hidle]

/-- Settles O59: the service stages the counter before the reply frame, so the frame brings the counter to C. -/
theorem servicedReplyIsTheCounter : Obligations.ServicedReplyIsTheCounter := by
  unfold Obligations.ServicedReplyIsTheCounter
  intro s k ht hk hv hp hslot hcs hst hfs hb hsel hoth hidle hirq hedge hr
  have hahead : ReplyAhead k s := ⟨ht, hk, hp, hslot, hcs, hst, hfs, hb, hsel, hoth⟩
  have hidleRun : exec (.respIdle k) s = .next (s.setRnode k { s.rnode k with rState := R_SERVICE }) := by
    rw [exec_respIdle hk hidle, idle_of_pending (.inl hirq)]
  have hserve : exec (.respService k) (s.setRnode k { s.rnode k with rState := R_SERVICE }) =
      .next (s.withNodes s.c k (s.rnode k).dataServed) := by
    rw [exec_respService (by simpa using hk) (by simp), setRnode_setRnode, setRnode_rnode_self, setRnode_cfg,
      service_data _ hv hidle hirq hedge hr, State.withNodes]
  obtain ⟨mosi, hrun⟩ := hahead.runOps_reply (s.rnode k).dataServed hr
  refine ⟨_, runOps_cons hidleRun (runOps_cons hserve hrun), ?_⟩
  rw [withNodes_c, withNodes_rnode_self, RNode.replied, complete_of_not_rxf rfl, State.replyEndedC]
  simp +contextual [RNode.dataServed, hslot]

end Machine
end Sys2Proof
end

section
/-! What an operation of node C leaves: the registers that FSEQ and CSMUX do not own, the nodes that POLL does not touch,
and the one step of the select lines and of `P_STATE` that a word of POLL can take (spec/41_chip_select.md R131–R134,
spec/42_poll_fsm.md R150–R166). -/

namespace Sys2Proof
namespace Machine

-- Registers kept

/-- The registers of POLL and SAMPLER are kept. -/
structure CoordFrame (c c' : CNode) : Prop where
  pState : c'.pState = c.pState
  slot : c'.slot = c.slot
  reply : c'.reply = c.reply
  ledC : c'.ledC = c.ledC
  sampled : c'.sampled = c.sampled

/-- The registers of CSMUX are kept. -/
structure LineFrame (c c' : CNode) : Prop where
  csN : c'.csN = c.csN
  csState : c'.csState = c.csState
  settleCnt : c'.settleCnt = c.settleCnt

/-- What FSEQ keeps: the registers of every other unit of C. -/
structure FseqFrame (c c' : CNode) : Prop extends CoordFrame c c', LineFrame c c'

theorem CoordFrame.refl (c : CNode) : CoordFrame c c := ⟨rfl, rfl, rfl, rfl, rfl⟩

theorem LineFrame.refl (c : CNode) : LineFrame c c := ⟨rfl, rfl, rfl⟩

theorem FseqFrame.refl (c : CNode) : FseqFrame c c := ⟨.refl c, .refl c⟩

theorem CoordFrame.trans {c c' c'' : CNode} (h : CoordFrame c c') (h' : CoordFrame c' c'') : CoordFrame c c'' :=
  ⟨h'.1.trans h.1, h'.2.trans h.2, h'.3.trans h.3, h'.4.trans h.4, h'.5.trans h.5⟩

theorem FseqFrame.raise (c : CNode) (b : Byte) : FseqFrame c (c.raise b) := ⟨⟨rfl, rfl, rfl, rfl, rfl⟩, ⟨rfl, rfl, rfl⟩⟩

theorem FseqFrame.bufr (c : CNode) : FseqFrame c c.bufr := ⟨⟨rfl, rfl, rfl, rfl, rfl⟩, ⟨rfl, rfl, rfl⟩⟩

theorem FseqFrame.endPulse (c : CNode) : FseqFrame c c.endPulse := ⟨⟨rfl, rfl, rfl, rfl, rfl⟩, ⟨rfl, rfl, rfl⟩⟩

theorem FseqFrame.bufw (c : CNode) (v : Byte) (d : BitVec 16) : FseqFrame c (c.bufw v d) := by
  rcases bufw_cases c v d with ⟨_, e⟩ | ⟨_, _, e⟩ | ⟨_, _, e⟩ <;> rw [e]
  · exact .raise c _
  · exact .raise c _
  · exact ⟨⟨rfl, rfl, rfl, rfl, rfl⟩, ⟨rfl, rfl, rfl⟩⟩

-- FSEQ

section fseq
variable (s : State)

theorem fsDrive_frame : FseqFrame s.c (fsDrive s).c := by
  unfold fsDrive
  split
  · exact ⟨⟨rfl, rfl, rfl, rfl, rfl⟩, ⟨rfl, rfl, rfl⟩⟩
  · obtain ⟨sr, u, f, e, -⟩ := sampleEdge_c s.presented
    simp only [mapC_c]
    rw [show s.mapC _ = s.presented from rfl, e]
    exact ⟨⟨rfl, rfl, rfl, rfl, rfl⟩, ⟨rfl, rfl, rfl⟩⟩

theorem fsSample_frame : FseqFrame s.c (fsSample s).c := by
  unfold fsSample
  repeat' split
  all_goals exact ⟨⟨rfl, rfl, rfl, rfl, rfl⟩, ⟨rfl, rfl, rfl⟩⟩

theorem completeFrame_frame (c : CNode) (cpol : Bool) : FseqFrame c (c.completeFrame cpol) :=
  ⟨⟨rfl, rfl, rfl, rfl, rfl⟩, ⟨rfl, rfl, rfl⟩⟩

theorem fsComplete_frame : FseqFrame s.c (fsComplete s).c := by
  by_cases h : s.c.unselC = true ∧ s.cfg.stallOnUnselected = true
  · rcases fsComplete_draws h with e | e <;> rw [e]
    · exact completeFrame_frame ..
    · exact ⟨⟨rfl, rfl, rfl, rfl, rfl⟩, ⟨rfl, rfl, rfl⟩⟩
  · rw [fsComplete_completes h]
    exact completeFrame_frame ..

theorem FseqWord.frame {i : Instr} {code : Code} {f : State → State} (h : FseqWord i code f) : FseqFrame s.c (f s).c := by
  cases h with
  | idle => exact ⟨⟨rfl, rfl, rfl, rfl, rfl⟩, ⟨rfl, rfl, rfl⟩⟩
  | drive => exact fsDrive_frame s
  | sample => exact fsSample_frame s
  | complete => exact fsComplete_frame s

theorem atState_frame {reg code : Code} {a : Code → Bool} {f : State → State} (hf : FseqFrame s.c (f s).c) :
    FseqFrame s.c (atState reg code a State.illegalC f s).c := by
  rcases atState_cases reg code a State.illegalC f s with ⟨_, e⟩ | ⟨_, _, e⟩ | ⟨_, _, e⟩ <;> rw [e]
  · exact hf
  · exact .refl _
  · exact .raise _ _

theorem FseqWord.fseqAt_frame {i : Instr} {code : Code} {f : State → State} (h : FseqWord i code f) :
    FseqFrame s.c (fseqAt code f s).c := by
  unfold fseqAt
  split
  · exact .refl _
  · exact atState_frame s (h.frame s)

theorem fseqStep_frame : FseqFrame s.c (fseqStep s).c := by
  unfold fseqStep
  repeat' split
  · exact .refl _
  · exact FseqWord.idle.frame s
  · exact fsDrive_frame s
  · exact fsSample_frame s
  · exact fsComplete_frame s
  · exact .raise _ _

end fseq

-- CSMUX

/-- One step of the select lines: none, a line driven low, or a low line driven high with its settle delay. -/
inductive LineStep (cfg : Config) (c : CNode) : CNode → Prop where
  | hold {c'} (h : LineFrame c c') : LineStep cfg c c'
  | select {c'} (k : Slot) (hst : c.csState = CS_STABLE) (hn : c'.csN = c.csN &&& ~~~lineMask k)
      (hs : c'.csState = CS_STABLE) : LineStep cfg c c'
  | deselect {c'} (k : Slot) (hst : c.csState = CS_STABLE) (hlow : csLine c.csN k = false)
      (hn : c'.csN = c.csN ||| lineMask k) (hs : c'.csState = CS_SETTLING)
      (hcnt : c'.settleCnt = BitVec.ofNat 32 cfg.settleTicks) : LineStep cfg c c'

/-- While the settle delay runs the lines stay. -/
theorem LineStep.of_settling {cfg : Config} {c c' : CNode} (h : LineStep cfg c c') (hs : c.csState = CS_SETTLING) :
    LineFrame c c' := by
  cases h with
  | hold h => exact h
  | select k hst _ _ => exact absurd (hs.symm.trans hst) settling_ne_stable
  | deselect k hst _ _ _ _ => exact absurd (hs.symm.trans hst) settling_ne_stable

/-- A step that drives a low line high starts the settle delay. -/
theorem LineStep.settles {cfg : Config} {c c' : CNode} {k : Slot} (h : LineStep cfg c c')
    (hlow : csLine c.csN k = false) (hhigh : csLine c'.csN k = true) :
    c'.csState = CS_SETTLING ∧ c'.settleCnt = BitVec.ofNat 32 cfg.settleTicks := by
  cases h with
  | hold h => simp [h.csN, hlow] at hhigh
  | select j _ hn _ => simp [hn, csLine_assert, hlow] at hhigh
  | deselect j _ _ _ hs hcnt => exact ⟨hs, hcnt⟩

theorem FseqFrame.inFrame (c : CNode) : FseqFrame c c.inFrame := by
  unfold CNode.inFrame
  split
  · exact .raise c _
  · exact .refl c

/-- What `CS.ASSERT` and `CS.DEASSERT` leave in C: POLL's registers, and one step of the lines. -/
structure SelectEffect (cfg : Config) (c c' : CNode) : Prop where
  coord : CoordFrame c c'
  line : LineStep cfg c c'

theorem SelectEffect.of_frame {cfg : Config} {c c' : CNode} (h : FseqFrame c c') : SelectEffect cfg c c' :=
  ⟨h.toCoordFrame, .hold h.toLineFrame⟩

theorem LineStep.after_frame {cfg : Config} {c c₁ c' : CNode} (hf : LineFrame c c₁) (h : LineStep cfg c₁ c') :
    LineStep cfg c c' := by
  obtain ⟨hn, hs, hc⟩ := hf
  cases h with
  | hold h => exact .hold ⟨h.1.trans hn, h.2.trans hs, h.3.trans hc⟩
  | select k hst hn' hs' => exact .select k (hs ▸ hst) (hn ▸ hn') hs'
  | deselect k hst hlow hn' hs' hc' => exact .deselect k (hs ▸ hst) (hn ▸ hlow) (hn ▸ hn') hs' hc'

theorem SelectEffect.after_frame {cfg : Config} {c c₁ c' : CNode} (hf : FseqFrame c c₁) (h : SelectEffect cfg c₁ c') :
    SelectEffect cfg c c' :=
  ⟨hf.toCoordFrame.trans h.coord, h.line.after_frame hf.toLineFrame⟩

theorem csAssert_effect (k : Slot) (s : State) :
    ∃ c', csAssert k s = { s with c := c' } ∧ SelectEffect s.cfg s.c c' ∧ c'.csState = s.c.csState := by
  by_cases hst : s.c.csState = CS_STABLE
  · rw [csAssert_stable hst]
    obtain ⟨hcoord, hline⟩ := FseqFrame.inFrame s.c
    rcases assertLine_cases k s with ⟨_, e⟩ | ⟨_, e⟩ <;> rw [e]
    · exact ⟨_, rfl, ⟨hcoord.trans ⟨rfl, rfl, rfl, rfl, rfl⟩, .hold ⟨hline.1, hline.2, hline.3⟩⟩, hline.2⟩
    · exact ⟨_, rfl, ⟨hcoord.trans ⟨rfl, rfl, rfl, rfl, rfl⟩, .select k hst rfl (hline.2.trans hst)⟩, hline.2⟩
  · exact ⟨_, if_neg hst, .of_frame (.refl _), rfl⟩

theorem csDeassert_effect (k : Slot) (s : State) :
    ∃ c', csDeassert k s = { s with c := c' } ∧ SelectEffect s.cfg s.c c' := by
  by_cases hst : s.c.csState = CS_STABLE
  · rw [csDeassert_stable hst]
    obtain ⟨hcoord, hline⟩ := FseqFrame.inFrame s.c
    rcases deassertLine_cases k s with ⟨_, e⟩ | ⟨hlow, e⟩ <;> rw [e]
    · exact ⟨_, rfl, hcoord, .hold hline⟩
    · exact ⟨_, rfl, hcoord.trans ⟨rfl, rfl, rfl, rfl, rfl⟩, .deselect k hst hlow rfl rfl rfl⟩
  · exact ⟨_, if_neg hst, .of_frame (.refl _)⟩

theorem csSettling_coord (s : State) : CoordFrame s.c (csSettling s).c := by
  unfold csSettling
  split
  · rw [mapC_c]
    split <;> exact ⟨rfl, rfl, rfl, rfl, rfl⟩
  · exact .refl _

theorem csmuxStep_coord (s : State) : CoordFrame s.c (csmuxStep s).c := by
  unfold csmuxStep
  repeat' split
  · exact .refl _
  · exact csSettling_coord s
  · exact (FseqFrame.raise _ _).toCoordFrame

-- POLL

/-- The successors of a POLL state (R166). -/
inductive PollSuccessor (s : State) : Code → Code → Prop where
  | jump {p q} (h : PollJump s p q) : PollSuccessor s p q
  | nextSlot (h : s.c.slot.toNat + 1 < s.cfg.nResp) : PollSuccessor s P_NEXT P_EXCL
  | iterate (h : s.cfg.nResp ≤ s.c.slot.toNat + 1) : PollSuccessor s P_NEXT P_GUARD

/-- What the word `i` of POLL can leave in C: at most one step of the lines and one of `P_STATE`, and `REPLY` and `LED_C` by
their own words alone. -/
structure PollEffect (i : Instr) (s : State) (c' : CNode) : Prop where
  line : LineStep s.cfg s.c c'
  stable : s.c.csState = CS_STABLE → c'.csState = CS_STABLE ∨ i = .pollExcl ∨ i = .pollDeselect
  path : c'.pState = s.c.pState ∨ PollSuccessor s s.c.pState c'.pState
  reply : c'.reply = s.c.reply ∨ i = .pollReceive
  ledC : c'.ledC = s.c.ledC ∨ i = .pollDisplay
  sampled : c'.sampled = s.c.sampled

section poll
variable {i : Instr} {s : State} {code q : Code}

/-- A word that keeps POLL's registers. -/
theorem PollEffect.stay {c' : CNode} (h : SelectEffect s.cfg s.c c')
    (hst : s.c.csState = CS_STABLE → c'.csState = CS_STABLE ∨ i = .pollExcl ∨ i = .pollDeselect) : PollEffect i s c' :=
  ⟨h.line, hst, .inl h.coord.pState, .inl h.coord.reply, .inl h.coord.ledC, h.coord.sampled⟩

theorem PollEffect.kept {c' : CNode} (h : FseqFrame s.c c') : PollEffect i s c' :=
  .stay (.of_frame h) fun e => .inl (h.csState.trans e)

/-- A word that then goes on to the next state. -/
theorem PollEffect.go {c' : CNode} (hp : s.c.pState = code) (hj : PollJump s code q) (h : PollEffect i s c') :
    PollEffect i s { c' with pState := q } := by
  obtain ⟨hline, hst, -, hreply, hled, hsamp⟩ := h
  refine ⟨?_, hst, .inr (hp ▸ .jump hj), hreply, hled, hsamp⟩
  cases hline with
  | hold h => exact .hold ⟨h.1, h.2, h.3⟩
  | select k hst hn hs => exact .select k hst hn hs
  | deselect k hst hlow hn hs hcnt => exact .deselect k hst hlow hn hs hcnt

/-- A state of C that a word of POLL can leave. -/
def PollLeaves (i : Instr) (s t : State) : Prop := ∃ c', t = { s with c := c' } ∧ PollEffect i s c'

theorem PollLeaves.pollWhen {cond : Bool} {f : State → State} (hf : PollLeaves i s (f s)) :
    PollLeaves i s (pollWhen cond f s) := by
  rcases pollWhen_cases cond f s with ⟨_, e⟩ | ⟨_, e⟩ <;> rw [e]
  · exact hf
  · exact ⟨s.c, rfl, .kept (.refl _)⟩

theorem PollLeaves.goP {t : State} (hp : s.c.pState = code) (hj : PollJump s code q) (h : PollLeaves i s t) :
    PollLeaves i s (goP q t) := by
  obtain ⟨c', rfl, hc⟩ := h
  exact ⟨_, rfl, hc.go hp hj⟩

theorem PollLeaves.mapC {g : CNode → CNode} (h : FseqFrame s.c (g s.c)) : PollLeaves i s (s.mapC g) := ⟨_, rfl, .kept h⟩

theorem PollLeaves.refl : PollLeaves i s s := ⟨_, rfl, .kept (.refl _)⟩

theorem PollLeaves.csAssert (k : Slot) : PollLeaves i s (csAssert k s) := by
  obtain ⟨c', e, h, hst⟩ := csAssert_effect k s
  exact ⟨c', e, .stay h fun e => .inl (hst.trans e)⟩

theorem PollLeaves.csDeassert (k : Slot) (hi : i = .pollExcl ∨ i = .pollDeselect) : PollLeaves i s (csDeassert k s) := by
  obtain ⟨c', e, h⟩ := csDeassert_effect k s
  exact ⟨c', e, .stay h fun _ => .inr hi⟩

theorem pollGuard_leaves (hp : s.c.pState = P_GUARD) : PollLeaves i s (pollGuard s) := by
  refine .pollWhen ?_
  split
  · exact .goP hp .guard .refl
  · exact .mapC ⟨⟨rfl, rfl, rfl, rfl, rfl⟩, ⟨rfl, rfl, rfl⟩⟩

theorem pollSample_leaves (hp : s.c.pState = P_SAMPLE) : PollLeaves i s (pollSample s) := by
  refine .goP hp .sample ?_
  split
  · exact .refl
  · exact .mapC ⟨⟨rfl, rfl, rfl, rfl, rfl⟩, ⟨rfl, rfl, rfl⟩⟩

theorem pollExcl_leaves (hp : s.c.pState = P_EXCL) : PollLeaves .pollExcl s (pollExcl s) := by
  refine .pollWhen ?_
  split
  · obtain ⟨c', e, h⟩ := csDeassert_effect (~~~s.c.slot) (s.mapC CNode.endPulse)
    exact ⟨c', e, .stay (h.after_frame (.endPulse s.c)) fun _ => .inr (.inl rfl)⟩
  · exact .goP hp .excl (.mapC (.endPulse _))

theorem pollDisplay_leaves (hp : s.c.pState = P_DISPLAY) : PollLeaves .pollDisplay s (pollDisplay s) := by
  refine .goP hp .display ?_
  split
  · exact ⟨_, rfl, .hold ⟨rfl, rfl, rfl⟩, .inl, .inl rfl, .inl rfl, .inr rfl, rfl⟩
  · exact .refl

theorem pollReceive_leaves (hp : s.c.pState = P_RECEIVE) : PollLeaves .pollReceive s (pollReceive s) :=
  .goP hp .receive ⟨_, rfl, .hold ⟨rfl, rfl, rfl⟩, .inl, .inl rfl, .inr rfl, .inl rfl, rfl⟩

theorem pollNext_leaves (hp : s.c.pState = P_NEXT) : PollLeaves i s (pollNext s) := by
  rcases Nat.lt_or_ge (s.c.slot.toNat + 1) s.cfg.nResp with h | h
  · rw [pollNext_nextSlot h]
    exact ⟨_, rfl, .hold ⟨rfl, rfl, rfl⟩, .inl, .inr (hp ▸ .nextSlot h), .inl rfl, .inl rfl, rfl⟩
  · rw [pollNext_lastSlot h]
    exact ⟨_, rfl, .hold ⟨rfl, rfl, rfl⟩, .inl, .inr (hp ▸ .iterate h), .inl rfl, .inl rfl, rfl⟩

/-- Every word of POLL, in the state it names. -/
theorem PollWord.leaves {f : State → State} (h : PollWord i code f) (hp : s.c.pState = code) : PollLeaves i s (f s) := by
  cases h with
  | guard => exact pollGuard_leaves hp
  | sample => exact pollSample_leaves hp
  | excl => exact pollExcl_leaves hp
  | select => exact .pollWhen (.goP hp .select (.csAssert _))
  | txdata => exact .goP hp .txdata (.mapC (.bufw ..))
  | waitdata => exact .pollWhen (.goP hp .waitdata (.mapC (.bufr _)))
  | deselect => exact .pollWhen (.goP hp .deselect (.csDeassert _ (.inr rfl)))
  | settle => exact .pollWhen (.goP hp .settle .refl)
  | reselect => exact .pollWhen (.goP hp .reselect (.csAssert _))
  | txsent => exact .goP hp .txsent (.mapC (.bufw ..))
  | waitreply => exact .pollWhen (.goP hp .waitreply .refl)
  | receive => exact pollReceive_leaves hp
  | display => exact pollDisplay_leaves hp
  | next => exact pollNext_leaves hp
  | skip => exact .pollWhen (.goP hp .skip (.mapC (.bufr _)))

end poll

end Machine
end Sys2Proof
end

section
/-! What an operation other than a reset can change, and the statements about sole writers that follow: in C its POLL state,
its select lines and the registers POLL and SAMPLER own, in a responder the counter and the outputs
(spec/10_state.md R22, R30, R34, spec/41_chip_select.md R131, spec/42_poll_fsm.md R166). -/

namespace Sys2Proof
namespace Machine

-- POLL in a tick and by its words

theorem pollWord_of_code {c : Code} (h : pollAssigned c = true) : ∃ i f, PollWord i c f := by
  rcases pollAssigned_cases c h with
    e | e | e | e | e | e | e | e | e | e | e | e | e | e | e <;> subst e
  · exact ⟨_, _, .guard⟩
  · exact ⟨_, _, .sample⟩
  · exact ⟨_, _, .excl⟩
  · exact ⟨_, _, .select⟩
  · exact ⟨_, _, .txdata⟩
  · exact ⟨_, _, .waitdata⟩
  · exact ⟨_, _, .deselect⟩
  · exact ⟨_, _, .settle⟩
  · exact ⟨_, _, .reselect⟩
  · exact ⟨_, _, .txsent⟩
  · exact ⟨_, _, .waitreply⟩
  · exact ⟨_, _, .receive⟩
  · exact ⟨_, _, .display⟩
  · exact ⟨_, _, .next⟩
  · exact ⟨_, _, .skip⟩

theorem pollStep_unassigned {s : State} (h : pollAssigned s.c.pState = false) : pollStep s = s.illegalC := by
  have hne {code : Code} (hc : pollAssigned code = true) : s.c.pState ≠ code := fun e => by simp [e, hc] at h
  simp only [pollStep, if_neg (hne (code := P_GUARD) rfl), if_neg (hne (code := P_SAMPLE) rfl),
    if_neg (hne (code := P_EXCL) rfl), if_neg (hne (code := P_SELECT) rfl), if_neg (hne (code := P_TXDATA) rfl),
    if_neg (hne (code := P_WAITDATA) rfl), if_neg (hne (code := P_DESELECT) rfl), if_neg (hne (code := P_SETTLE) rfl),
    if_neg (hne (code := P_RESELECT) rfl), if_neg (hne (code := P_TXSENT) rfl), if_neg (hne (code := P_WAITREPLY) rfl),
    if_neg (hne (code := P_RECEIVE) rfl), if_neg (hne (code := P_DISPLAY) rfl), if_neg (hne (code := P_NEXT) rfl),
    if_neg (hne (code := P_SKIP) rfl)]

theorem PollLeaves.illegalC {i : Instr} {s : State} : PollLeaves i s s.illegalC :=
  ⟨_, rfl, .kept (.raise s.c ILLEGAL_STATE_C)⟩

theorem pollStep_leaves (s : State) : ∃ i, PollLeaves i s (pollStep s) := by
  cases ha : pollAssigned s.c.pState with
  | true =>
    obtain ⟨i, f, hw⟩ := pollWord_of_code ha
    exact ⟨i, hw.tick rfl ▸ hw.leaves rfl⟩
  | false => exact ⟨.pollGuard, pollStep_unassigned ha ▸ .illegalC⟩

theorem PollWord.pollAt_leaves {i : Instr} {code : Code} {f : State → State} (h : PollWord i code f) (s : State) :
    PollLeaves i s (pollAt code f s) := by
  unfold pollAt
  rcases atState_cases s.c.pState code pollAssigned State.illegalC f s with ⟨hp, e⟩ | ⟨_, _, e⟩ | ⟨_, _, e⟩ <;> rw [e]
  · exact h.leaves hp
  · exact .refl
  · exact .illegalC

-- The responders: what is not shown

/-- The counter and the outputs of a responder are kept. -/
structure ShownFrame (r r' : RNode) : Prop where
  counter : r'.counter = r.counter
  ledR : r'.ledR = r.ledR
  duty : r'.duty = r.duty

theorem ShownFrame.refl (r : RNode) : ShownFrame r r := ⟨rfl, rfl, rfl⟩

theorem ShownFrame.trans {r r' r'' : RNode} (h : ShownFrame r r') (h' : ShownFrame r' r'') : ShownFrame r r'' :=
  ⟨h'.1.trans h.1, h'.2.trans h.2, h'.3.trans h.3⟩

theorem ShownFrame.raise (r : RNode) (b : Byte) : ShownFrame r (r.raise b) := ⟨rfl, rfl, rfl⟩

theorem ShownFrame.complete (r : RNode) : ShownFrame r r.complete := by
  rcases complete_cases r with ⟨_, e⟩ | ⟨_, e⟩ <;> rw [e] <;> exact ⟨rfl, rfl, rfl⟩

theorem ShownFrame.shift (r : RNode) (b : Bool) : ShownFrame r (r.shift b) := by
  rcases shift_cases r b with ⟨_, e⟩ | ⟨_, e⟩ <;> rw [e]
  · exact .trans (r' := { r with srR := shiftIn r.srR b, bitcntR := 0#4 }) ⟨rfl, rfl, rfl⟩ (.complete _)
  · exact ⟨rfl, rfl, rfl⟩

theorem ShownFrame.csedge (r : RNode) (csn : Bool) : ShownFrame r (r.csedge csn) := by
  unfold RNode.csedge
  split
  · split <;> exact ⟨rfl, rfl, rfl⟩
  · exact ⟨rfl, rfl, rfl⟩

theorem ShownFrame.bufw (r : RNode) (v : Byte) : ShownFrame r (r.bufw v) := by
  rcases rbufw_cases r v with ⟨_, e⟩ | ⟨_, e⟩ <;> rw [e] <;> exact ⟨rfl, rfl, rfl⟩

theorem ShownFrame.setPin (r : RNode) (p : Pin) (l : Bool) : ShownFrame r (r.setPin p l) := by
  cases p <;> exact ⟨rfl, rfl, rfl⟩

theorem ShownFrame.idle (r : RNode) (v : Variant) : ShownFrame r (r.idle v) := by
  unfold RNode.idle
  split <;> exact ⟨rfl, rfl, rfl⟩

/-- What the operation `i` of `R_k` can change in what the node shows. -/
structure NodeEffect (i : Instr) (k : Slot) (r r' : RNode) : Prop where
  counter : r'.counter ≠ r.counter → i = .respHEdge k ∨ i = .respService k ∨ i = .evTick (.r k)
  ledR : r'.ledR ≠ r.ledR → i = .respHRxDisplay k ∨ i = .respService k ∨ i = .evTick (.r k)
  duty : r'.duty ≠ r.duty → i = .respHRxPwm k ∨ i = .respService k ∨ i = .evTick (.r k) ∨ ∃ d, i = .respPwmsplit k d

theorem NodeEffect.of_shown {i : Instr} {k : Slot} {r r' : RNode} (h : ShownFrame r r') : NodeEffect i k r r' :=
  ⟨fun e => absurd h.counter e, fun e => absurd h.ledR e, fun e => absurd h.duty e⟩

/-- The operation `i` of `R_k` leaves C and the other responder. -/
structure NodeStep (i : Instr) (k : Slot) (s t : State) : Prop where
  c : t.c = s.c
  other : t.rnode (~~~k) = s.rnode (~~~k)
  node : NodeEffect i k (s.rnode k) (t.rnode k)

section node
variable {i : Instr} {k : Slot} {s : State}

theorem NodeStep.refl : NodeStep i k s s := ⟨rfl, rfl, .of_shown (.refl _)⟩

theorem NodeStep.mapR {f : RNode → RNode} (h : NodeEffect i k (s.rnode k) (f (s.rnode k))) : NodeStep i k s (s.mapR k f) :=
  ⟨setRnode_c .., setRnode_rnode_other .., by rwa [mapR_rnode_self]⟩

theorem NodeStep.illegalR : NodeStep i k s (State.illegalR k s) :=
  .mapR (f := (·.raise ILLEGAL_STATE_R)) (.of_shown (.raise _ _))

theorem NodeStep.respAt {code : Code} {f : RNode → RNode} (h : NodeEffect i k (s.rnode k) (f (s.rnode k))) :
    NodeStep i k s (respAt k code f s) := by
  unfold Machine.respAt
  rcases atState_cases (s.rnode k).rState code respAssigned (State.illegalR k) (fun s => s.mapR k f) s with
    ⟨_, e⟩ | ⟨_, _, e⟩ | ⟨_, _, e⟩ <;> rw [e]
  · exact .mapR h
  · exact .refl
  · exact .illegalR

theorem NodeStep.inVariant {v : Variant} {f : RNode → RNode} (h : NodeEffect i k (s.rnode k) (f (s.rnode k))) :
    NodeStep i k s (inVariant v k f s) := by
  rcases inVariant_cases v k f s with ⟨_, _, e⟩ | ⟨_, _, e⟩ | ⟨_, e⟩ <;> rw [e]
  · exact .mapR h
  · exact .illegalR
  · exact .refl

theorem hEdge_effect (r : RNode) : NodeEffect (.respHEdge k) k r r.hEdge := by
  rw [hEdge_eq]
  exact ⟨fun _ => .inl rfl, fun e => absurd rfl e, fun e => absurd rfl e⟩

theorem hRxDisplay_effect (r : RNode) : NodeEffect (.respHRxDisplay k) k r r.hRxDisplay := by
  by_cases h : r.bitcntR = 0#4
  · rw [hRxDisplay_stages h]
    exact ⟨fun e => absurd rfl e, fun _ => .inl rfl, fun e => absurd rfl e⟩
  · rw [hRxDisplay_collides h]
    exact ⟨fun e => absurd rfl e, fun _ => .inl rfl, fun e => absurd rfl e⟩

theorem hRxPwm_effect (r : RNode) (cfg : Config) (sc : SlotConfig) :
    NodeEffect (.respHRxPwm k) k r (r.hRxPwm cfg sc) :=
  ⟨fun e => absurd rfl e, fun e => absurd rfl e, fun _ => .inl rfl⟩

theorem service_effect (r r' : RNode) : NodeEffect (.respService k) k r r' :=
  ⟨fun _ => .inr (.inl rfl), fun _ => .inr (.inl rfl), fun _ => .inr (.inl rfl)⟩

theorem tick_effect (r r' : RNode) : NodeEffect (.evTick (.r k)) k r r' :=
  ⟨fun _ => .inr (.inr rfl), fun _ => .inr (.inr rfl), fun _ => .inr (.inr (.inl rfl))⟩

theorem pwmsplit_effect (r : RNode) (d : BitVec 10) : NodeEffect (.respPwmsplit k d) k r (r.pwmsplit d) :=
  ⟨fun e => absurd rfl e, fun e => absurd rfl e, fun _ => .inr (.inr (.inr ⟨d, rfl⟩))⟩

/-- A part of an operation's effect leaves C and the other responder. -/
structure OnNode (k : Slot) (s t : State) : Prop where
  c : t.c = s.c
  other : t.rnode (~~~k) = s.rnode (~~~k)

theorem OnNode.trans {t u : State} (h : OnNode k s t) (h' : OnNode k t u) : OnNode k s u :=
  ⟨h'.1.trans h.1, h'.2.trans h.2⟩

theorem mapR_onNode (f : RNode → RNode) : OnNode k s (s.mapR k f) := ⟨mapR_c .., mapR_rnode_other ..⟩

theorem inVariant_onNode (v : Variant) (f : RNode → RNode) : OnNode k s (inVariant v k f s) := by
  rcases inVariant_cases v k f s with ⟨_, _, e⟩ | ⟨_, _, e⟩ | ⟨_, e⟩ <;> rw [e]
  · exact mapR_onNode f
  · exact mapR_onNode (·.raise ILLEGAL_STATE_R)
  · exact ⟨rfl, rfl⟩

theorem respStep_onNode : OnNode k s (respStep k s) := by
  unfold respStep
  repeat' split
  · exact mapR_onNode _
  · exact mapR_onNode _
  · exact mapR_onNode (·.raise ILLEGAL_STATE_R)

theorem respTick_onNode : OnNode k s (respTick k s) := by
  unfold respTick
  split
  · exact respStep_onNode.trans ⟨rfl, rfl⟩
  · exact ⟨rfl, rfl⟩

theorem tickR_onNode : OnNode k s (tickR k s) :=
  (mapR_onNode _).trans ((inVariant_onNode _ _).trans respTick_onNode)

theorem NodeStep.onSlot {t : State} {f : State → State} (h : onSlot k s f = .next t) (hf : NodeStep i k s (f s)) :
    NodeStep i k s t := by
  rw [(onSlot_next_iff.mp h).2]; exact hf

theorem evTick_nodeStep : NodeStep (.evTick (.r k)) k s (evTick (.r k) s) := by
  unfold evTick
  split
  · exact ⟨tickR_onNode.c, tickR_onNode.other, tick_effect _ _⟩
  · exact .refl

theorem rsBufr_nodeStep (x : BitVec 10) : NodeStep i k s { s.mapR k RNode.bufr with result := x } := by
  have h := NodeStep.mapR (i := i) (k := k) (s := s) (f := RNode.bufr) (.of_shown ⟨rfl, rfl, rfl⟩)
  exact ⟨h.c, h.other, h.node⟩

theorem linmap_nodeStep (x : Byte) :
    NodeStep i k s (respOwn k (fun s => { s with result := linmap s.cfg (s.cfg.slot k) x }) s) := by
  unfold respOwn
  rcases ofUnit_cases (s.rnode k).rState respAssigned (State.illegalR k)
    (fun s => { s with result := linmap s.cfg (s.cfg.slot k) x }) s with ⟨_, e⟩ | ⟨_, e⟩ <;> rw [e]
  · exact ⟨rfl, rfl, .of_shown (.refl _)⟩
  · exact .illegalR

/-- An operation of a responder leaves C and the other responder. -/
theorem exec_nodeStep {t : State} (h : exec i s = .next t) (hi : i.slot? = some k)
    (hcs : i.unit ≠ .csmux) : NodeStep i k s t := by
  cases i with
  | csAssert j | csDeassert j => exact absurd rfl hcs
  | rsShift j b =>
    cases hi; unfold exec execRsShift at h
    exact .onSlot h (by split; exacts [.mapR (.of_shown (.shift _ b)), .refl])
  | rsCsedge j => cases hi; unfold exec execRsCsedge at h; exact .onSlot h (.mapR (.of_shown (.csedge _ _)))
  | rsComplete j => cases hi; unfold exec execRsComplete at h; exact .onSlot h (.mapR (.of_shown (.complete _)))
  | rsBufr j => cases hi; unfold exec execRsBufr at h; exact .onSlot h (rsBufr_nodeStep _)
  | rsBufw j v => cases hi; unfold exec execRsBufw at h; exact .onSlot h (.mapR (.of_shown (.bufw _ v)))
  | rsIrqclr j m => cases hi; unfold exec execRsIrqclr at h; exact .onSlot h (.mapR (.of_shown ⟨rfl, rfl, rfl⟩))
  | respIdle j => cases hi; unfold exec execRespIdle at h; exact .onSlot h (.respAt (.of_shown (.idle _ _)))
  | respService j => cases hi; unfold exec execRespService at h; exact .onSlot h (.respAt (service_effect _ _))
  | respHEdge j => cases hi; unfold exec execRespHEdge at h; exact .onSlot h (.inVariant (hEdge_effect _))
  | respHRxDisplay j =>
    cases hi; unfold exec execRespHRxDisplay at h; exact .onSlot h (.inVariant (hRxDisplay_effect _))
  | respHRxPwm j => cases hi; unfold exec execRespHRxPwm at h; exact .onSlot h (.inVariant (hRxPwm_effect _ _ _))
  | respLinmap j x => cases hi; unfold exec execRespLinmap at h; exact .onSlot h (linmap_nodeStep x)
  | respPwmsplit j d => cases hi; unfold exec execRespPwmsplit at h; exact .onSlot h (.inVariant (pwmsplit_effect _ d))
  | respPindet j =>
    cases hi; unfold exec execRespPindet at h; exact .onSlot h (.inVariant (.of_shown ⟨rfl, rfl, rfl⟩))
  | evPin j p l => cases hi; unfold exec execEvPin at h; exact .onSlot h (.mapR (.of_shown (.setPin _ p l)))
  | evTick node =>
    cases node with
    | c => cases hi
    | r j => cases hi; exact .onSlot h evTick_nodeStep
  | _ => cases hi

end node

-- C: what POLL and SAMPLER own, and the settle state

/-- The end of a settle delay: the lines stay as they are. -/
structure SettleEnd (c c' : CNode) : Prop where
  csN : c'.csN = c.csN
  before : c.csState = CS_SETTLING
  after : c'.csState = CS_STABLE

/-- What the operation `i` can change in the registers of C that POLL and SAMPLER own, when it starts a settle delay, and
what it does to the lines where time is abstract. -/
structure CoordEffect (i : Instr) (s t : State) : Prop where
  path : t.c.pState ≠ s.c.pState →
    (i.unit = .poll ∨ i = .evTick .c ∨ i = .evDeliver (some .poll) ∨ i = .evDeliver none)
      ∧ PollSuccessor s s.c.pState t.c.pState
  reply : t.c.reply ≠ s.c.reply → i = .pollReceive ∨ i = .evTick .c
  ledC : t.c.ledC ≠ s.c.ledC → i = .pollDisplay ∨ i = .evTick .c
  sampled : t.c.sampled ≠ s.c.sampled → i = .smpIsr ∨ i = .smpIdle
  line : s.counting = false → LineStep s.cfg s.c t.c ∨ (SettleEnd s.c t.c ∧ ∃ delay, i = .evDeliver delay)
  unstable : s.c.csState = CS_STABLE → t.c.csState ≠ CS_STABLE →
    ((∃ k, i = .csDeassert k) ∨ i = .pollExcl ∨ i = .pollDeselect ∨ i = .evTick .c) ∧ ∃ k, Deselects k s t

/-- A step of the lines out of `CS_STABLE` is a deselect. -/
theorem LineStep.unstable {s t : State} {cfg : Config} (h : LineStep cfg s.c t.c) (hs : s.c.csState = CS_STABLE)
    (ht : t.c.csState ≠ CS_STABLE) : ∃ k, Deselects k s t := by
  cases h with
  | hold h => exact absurd (h.csState.trans hs) ht
  | select k _ _ hs' => exact absurd hs' ht
  | deselect k _ hlow hn _ _ => exact ⟨k, hlow, by simp [hn, csLine_deassert]⟩

section coord
variable {i : Instr} {s t : State}

theorem CoordEffect.of_select (h : SelectEffect s.cfg s.c t.c)
    (hst : s.c.csState = CS_STABLE → t.c.csState ≠ CS_STABLE → ∃ k, i = .csDeassert k) : CoordEffect i s t := by
  obtain ⟨hcoord, hline⟩ := h
  exact ⟨fun e => absurd hcoord.pState e, fun e => absurd hcoord.reply e, fun e => absurd hcoord.ledC e,
    fun e => absurd hcoord.sampled e, fun _ => .inl hline, fun hs ht => ⟨.inl (hst hs ht), hline.unstable hs ht⟩⟩

theorem CoordEffect.of_frame (h : FseqFrame s.c t.c) : CoordEffect i s t :=
  .of_select (.of_frame h) fun hs ht => absurd (h.csState.trans hs) ht

theorem CoordEffect.of_c (h : t.c = s.c) : CoordEffect i s t := .of_frame (h ▸ .refl _)

theorem CoordEffect.of_poll (hu : i.unit = .poll) (h : PollLeaves i s t) : CoordEffect i s t := by
  obtain ⟨c', rfl, hline, hst, hpath, hreply, hled, hsamp⟩ := h
  refine ⟨fun e => ⟨.inl hu, hpath.resolve_left e⟩, fun e => .inl (hreply.resolve_left e), fun e => .inl (hled.resolve_left e),
    fun e => absurd hsamp e, fun _ => .inl hline, fun hs ht => ⟨?_, hline.unstable hs ht⟩⟩
  rcases (hst hs).resolve_left ht with e | e
  · exact .inr (.inl e)
  · exact .inr (.inr (.inl e))

theorem Moves.cfg_eq (h : Moves s t) : t.cfg = s.cfg :=
  h.keep (P := fun u => u.cfg = s.cfg) (fun _ _ hu hm => hm.cfg_eq.trans hu) rfl

theorem PollSuccessor.congr {u : State} {p q : Code} (hcfg : u.cfg = s.cfg) (hslot : u.c.slot = s.c.slot)
    (h : PollSuccessor u p q) : PollSuccessor s p q := by
  cases h with
  | jump h => cases h with
    | txdata => rw [hcfg, hslot]; exact .jump .txdata
    | _ => exact .jump (by constructor)
  | nextSlot h => exact .nextSlot (by rwa [← hcfg, ← hslot])
  | iterate h => exact .iterate (by rwa [← hcfg, ← hslot])

/-- The state between CSMUX and POLL in a tick of C. -/
def State.beforePoll (s : State) : State := csmuxStep (fseqStep (s.mapC CNode.endPulse))

theorem fseqPart_frame (s : State) : FseqFrame s.c (fseqStep (s.mapC CNode.endPulse)).c :=
  have h := fseqStep_frame (s.mapC CNode.endPulse)
  ⟨(FseqFrame.endPulse s.c).toCoordFrame.trans h.toCoordFrame, ⟨h.csN, h.csState, h.settleCnt⟩⟩

theorem beforePoll_coord (s : State) : CoordFrame s.c s.beforePoll.c :=
  (fseqPart_frame s).toCoordFrame.trans (csmuxStep_coord _)

theorem beforePoll_cfg (s : State) : s.beforePoll.cfg = s.cfg :=
  (csmuxStep_moves _).cfg_eq.trans (fseqStep_moves _).cfg_eq

/-- In `CS_STABLE` CSMUX has no step of its own in a tick. -/
theorem beforePoll_stable (h : s.c.csState = CS_STABLE) : LineFrame s.c s.beforePoll.c := by
  have hs := fseqPart_frame s
  rw [State.beforePoll, csmuxStep, if_pos (hs.csState.trans h), csStable]
  exact hs.toLineFrame

theorem tickC_effect {s : State} (hcount : s.counting = true) : CoordEffect (.evTick .c) s (tickC s) := by
  obtain ⟨j, c', e, hline, -, hpath, -, -, hsamp⟩ := pollStep_leaves s.beforePoll
  have hcoord := beforePoll_coord s
  rw [show tickC s = pollStep s.beforePoll from rfl, e]
  refine ⟨fun hne => ⟨.inr (.inl rfl), ?_⟩, fun _ => .inr rfl, fun _ => .inr rfl,
    fun hne => absurd (hsamp.trans hcoord.sampled) hne, fun h => by simp [hcount] at h, fun hs ht => ⟨.inr (.inr (.inr rfl)), ?_⟩⟩
  · rw [hcoord.pState] at hpath
    exact (hpath.resolve_left hne).congr (beforePoll_cfg s) hcoord.slot
  · have hframe := beforePoll_stable hs
    obtain ⟨k, hlow, hhigh⟩ := hline.unstable (t := { s.beforePoll with c := c' }) (hframe.csState.trans hs) ht
    exact ⟨k, hframe.csN ▸ hlow, hhigh⟩

theorem evTickC_effect (s : State) : CoordEffect (.evTick .c) s (evTick .c s) := by
  unfold evTick
  split
  · exact tickC_effect ‹_›
  · exact .of_c rfl

theorem smpIsr_effect (s : State) (hi : i = .smpIsr ∨ i = .smpIdle) : CoordEffect i s (smpIsr s) :=
  ⟨fun e => absurd rfl e, fun e => absurd rfl e, fun e => absurd rfl e, fun _ => hi,
    fun _ => .inl (.hold ⟨rfl, rfl, rfl⟩), fun hs ht => absurd hs ht⟩

/-- What the end of delays can change: `CS_SETTLING` to `CS_STABLE`, and `P_GUARD` to `P_SAMPLE`. -/
structure DelayEnd (s t : State) : Prop where
  reply : t.c.reply = s.c.reply
  ledC : t.c.ledC = s.c.ledC
  sampled : t.c.sampled = s.c.sampled
  line : LineFrame s.c t.c ∨ SettleEnd s.c t.c
  path : t.c.pState = s.c.pState ∨ s.c.pState = P_GUARD ∧ t.c.pState = P_SAMPLE

theorem DelayEnd.trans {u : State} (h : DelayEnd s t) (h' : DelayEnd t u) : DelayEnd s u := by
  obtain ⟨h1, h2, h3, h4, h5⟩ := h
  obtain ⟨h1', h2', h3', h4', h5'⟩ := h'
  refine ⟨h1'.trans h1, h2'.trans h2, h3'.trans h3, ?_, ?_⟩
  · rcases h4 with h | h <;> rcases h4' with h' | h'
    · exact .inl ⟨h'.1.trans h.1, h'.2.trans h.2, h'.3.trans h.3⟩
    · exact .inr ⟨h'.csN.trans h.csN, h.csState.symm.trans h'.before, h'.after⟩
    · exact .inr ⟨h'.csN.trans h.csN, h.before, h'.csState.trans h.after⟩
    · exact absurd (h'.before.symm.trans h.after) settling_ne_stable
  rcases h5 with e | ⟨hg, hs⟩
  · rwa [e] at h5'
  · rcases h5' with e' | ⟨hg', _⟩
    · exact .inr ⟨hg, e'.trans hs⟩
    · exact absurd (hs.symm.trans hg') (by decide)

theorem endDelay_delayEnd (delay : DelayUnit) (s : State) : DelayEnd s (endDelay delay s) := by
  cases delay with
  | csmux =>
    simp only [endDelay]
    split
    · exact ⟨rfl, rfl, rfl, .inr ⟨rfl, ‹_›, rfl⟩, .inl rfl⟩
    · exact ⟨rfl, rfl, rfl, .inl (.refl _), .inl rfl⟩
  | poll =>
    simp only [endDelay]
    split
    · exact ⟨rfl, rfl, rfl, .inl ⟨rfl, rfl, rfl⟩, .inr ⟨‹_›, rfl⟩⟩
    · exact ⟨rfl, rfl, rfl, .inl (.refl _), .inl rfl⟩

theorem DelayEnd.effect {delay : Option DelayUnit} (h : DelayEnd s t)
    (hi : t.c.pState ≠ s.c.pState → delay = some .poll ∨ delay = none) : CoordEffect (.evDeliver delay) s t := by
  obtain ⟨hreply, hled, hsamp, hline, hpath⟩ := h
  refine ⟨fun e => ⟨.inr (.inr ((hi e).imp (congrArg _) (congrArg _))), ?_⟩, fun e => absurd hreply e,
    fun e => absurd hled e, fun e => absurd hsamp e, fun _ => hline.imp .hold fun h => ⟨h, delay, rfl⟩, fun hs ht => ?_⟩
  · obtain ⟨hg, hs⟩ := hpath.resolve_left e
    rw [hg, hs]
    exact .jump .guard
  · rcases hline with h | h
    · exact absurd (h.csState.trans hs) ht
    · exact absurd h.after ht

theorem evDeliver_counting (delay : Option DelayUnit) (h : s.counting = true) : evDeliver delay s = s := if_pos h

theorem evDeliver_some (u : DelayUnit) (h : s.counting = false) : evDeliver (some u) s = endDelay u s :=
  if_neg (by simp [h])

theorem evDeliver_none (h : s.counting = false) : evDeliver none s =
    if s.bothDelaysRun then (endDelay (if s.nextBit then .csmux else .poll) s).drew 1
    else endDelay .poll (endDelay .csmux s) :=
  if_neg (by simp [h])

theorem evDeliver_effect (delay : Option DelayUnit) (s : State) :
    CoordEffect (.evDeliver delay) s (evDeliver delay s) := by
  cases hcount : s.counting with
  | true => exact .of_c (congrArg State.c (evDeliver_counting delay hcount))
  | false =>
    cases delay with
    | none =>
      rw [evDeliver_none hcount]
      split
      · have h := endDelay_delayEnd (if s.nextBit then .csmux else .poll) s
        exact DelayEnd.effect (t := State.drew _ 1) ⟨h.1, h.2, h.3, h.4, h.5⟩ fun _ => .inr rfl
      · exact ((endDelay_delayEnd .csmux s).trans (endDelay_delayEnd .poll _)).effect fun _ => .inr rfl
    | some u =>
      rw [evDeliver_some u hcount]
      refine (endDelay_delayEnd u s).effect fun hne => ?_
      cases u with
      | csmux =>
        refine absurd ?_ hne
        simp only [endDelay]
        split <;> rfl
      | poll => exact .inl rfl

theorem csSettling_effect (s : State) :
    CoordEffect i s (atState s.c.csState CS_SETTLING csAssigned State.illegalC csSettling s) := by
  rcases atState_cases s.c.csState CS_SETTLING csAssigned State.illegalC csSettling s with ⟨hs, e⟩ | ⟨_, _, e⟩ | ⟨_, _, e⟩ <;>
    rw [e]
  · have h := csSettling_coord s
    refine ⟨fun e => absurd h.pState e, fun e => absurd h.reply e, fun e => absurd h.ledC e, fun e => absurd h.sampled e,
      fun hcount => .inl ?_, fun hst => absurd (hs.symm.trans hst) settling_ne_stable⟩
    rw [csSettling, hcount, if_neg (by decide)]
    exact .hold (.refl _)
  · exact .of_c rfl
  · exact .of_frame (.raise _ _)

theorem csDeassert_coordEffect {k : Slot} (s : State) : CoordEffect (.csDeassert k) s (csDeassert k s) := by
  obtain ⟨c', e, h⟩ := csDeassert_effect k s
  rw [e]
  exact .of_select h fun _ _ => ⟨k, rfl⟩

theorem csAssert_coordEffect {k : Slot} (s : State) : CoordEffect i s (csAssert k s) := by
  obtain ⟨c', e, h, hst⟩ := csAssert_effect k s
  rw [e]
  exact .of_select h fun hs ht => absurd (hst.trans hs) ht

theorem smp_effect (hi : i = .smpIsr ∨ i = .smpIdle) {f : State → State} (hf : f = smpIsr ∨ f = smpIdle) (s : State) :
    CoordEffect i s (f s) := by
  rcases hf with rfl | rfl
  · exact smpIsr_effect s hi
  · unfold smpIdle
    split
    · exact smpIsr_effect s hi
    · exact .of_c rfl

/-- What an operation other than a reset can change in the registers of C that POLL and SAMPLER own. -/
theorem exec_coordEffect (h : exec i s = .next t) (hne : i ≠ .evReset) : CoordEffect i s t := by
  cases hslot : i.slot? with
  | some k =>
    by_cases hcs : i.unit = .csmux
    · cases i with
      | csAssert j => rw [(onSlot_next_iff.mp (h : onSlot j s (csAssert j) = _)).2]; exact csAssert_coordEffect s
      | csDeassert j => rw [(onSlot_next_iff.mp (h : onSlot j s (csDeassert j) = _)).2]; exact csDeassert_coordEffect s
      | csStable | csSettling | csRead => cases hslot
      | _ => cases hcs
    · exact .of_c (exec_nodeStep h hslot hcs).c
  | none =>
    by_cases hu : i.unit = .poll
    · obtain ⟨code, f, hw⟩ := pollWord_of_unit hu
      cases (hw.exec s).symm.trans h
      exact .of_poll hu (hw.pollAt_leaves s)
    · cases i with
      | evReset => exact absurd rfl hne
      | fsIdle => cases h; exact .of_frame (FseqWord.idle.fseqAt_frame s)
      | fsDrive => cases h; exact .of_frame (FseqWord.drive.fseqAt_frame s)
      | fsSample => cases h; exact .of_frame (FseqWord.sample.fseqAt_frame s)
      | fsComplete => cases h; exact .of_frame (FseqWord.complete.fseqAt_frame s)
      | fsBufw v => cases h; exact .of_frame (.bufw ..)
      | fsBufr => cases h; exact .of_frame (.bufr s.c)
      | csStable => cases h; exact .of_frame (atState_frame s (.refl _))
      | csSettling => cases h; exact csSettling_effect s
      | csRead => cases h; exact .of_c rfl
      | smpIdle =>
        cases h
        rcases atState_cases s.c.sState S_IDLE smpAssigned State.illegalC smpIdle s with ⟨_, e⟩ | ⟨_, _, e⟩ | ⟨_, _, e⟩ <;>
          rw [e]
        · exact smp_effect (.inr rfl) (.inr rfl) s
        · exact .of_c rfl
        · exact .of_frame (.raise _ _)
      | smpIsr =>
        cases h
        rcases ofUnit_cases s.c.sState smpAssigned State.illegalC smpIsr s with ⟨_, e⟩ | ⟨_, e⟩ <;> rw [e]
        · exact smpIsr_effect s (.inl rfl)
        · exact .of_frame (.raise _ _)
      | smpStart => cases h; exact .of_frame ⟨⟨rfl, rfl, rfl, rfl, rfl⟩, ⟨rfl, rfl, rfl⟩⟩
      | evAdcDone ch res =>
        cases h
        unfold evAdcDone
        split
        · exact .of_frame ⟨⟨rfl, rfl, rfl, rfl, rfl⟩, ⟨rfl, rfl, rfl⟩⟩
        · exact .of_c rfl
      | evTick node =>
        cases node with
        | c => cases h; exact evTickC_effect s
        | r k => cases hslot
      | evDeliver delay => cases h; exact evDeliver_effect delay s
      | pollGuard | pollSample | pollExcl | pollSelect | pollTxdata | pollWaitdata | pollDeselect | pollSettle | pollReselect
      | pollTxsent | pollWaitreply | pollReceive | pollDisplay | pollNext | pollSkip => exact absurd rfl hu
      | _ => cases hslot

end coord

/-- Settles O26: the effect of an operation on C, `k` being one of the two slots. -/
theorem onlyADeselectStartsASettleDelay : Obligations.OnlyADeselectStartsASettleDelay := by
  unfold Obligations.OnlyADeselectStartsASettleDelay
  intro i s t h hs ht
  have hne : i ≠ .evReset := by
    rintro rfl
    cases h
    exact ht rfl
  obtain ⟨hi, hdes⟩ := (exec_coordEffect h hne).unstable hs ht
  refine ⟨?_, hdes⟩
  rcases hi with ⟨k, rfl⟩ | hi
  · rcases slot_cases k with rfl | rfl
    · exact .inl rfl
    · exact .inr (.inl rfl)
  · exact .inr (.inr hi)

/-- Settles O35: the effect of an operation on C, its successors written out. -/
theorem pollFollowsItsStatePath : Obligations.PollFollowsItsStatePath := by
  unfold Obligations.PollFollowsItsStatePath
  intro i s t h hne hp
  obtain ⟨hi, hpath⟩ := (exec_coordEffect h hne).path hp
  refine ⟨hi, ?_⟩
  generalize s.c.pState = p at hpath ⊢
  generalize t.c.pState = q at hpath ⊢
  cases hpath with
  | jump h => cases h <;> simp
  | nextSlot h => simp [h]
  | iterate h => simp [Nat.not_lt.mpr h]

-- The responders, by an operation that names none

section shown
variable {i : Instr} {s t : State} (k : Slot)

theorem ShownFrame.of_eq {r r' : RNode} (h : r' = r) : ShownFrame r r' := h ▸ .refl r

theorem sampleEdge_shown (s : State) : ShownFrame (s.rnode k) ((sampleEdge s).rnode k) := by
  rw [sampleEdge_rnode]
  split
  · exact .shift _ _
  · exact .refl _

theorem fsDrive_shown (s : State) : ShownFrame (s.rnode k) ((fsDrive s).rnode k) := by
  unfold fsDrive
  split
  · exact .refl _
  · exact sampleEdge_shown k s.presented

theorem fsSample_rnode (s : State) : (fsSample s).rnode k = s.rnode k := by
  unfold fsSample
  repeat' split
  all_goals rfl

theorem fsComplete_rnode (s : State) : (fsComplete s).rnode k = s.rnode k := by
  unfold fsComplete
  split <;> rfl

theorem FseqWord.shown {code : Code} {f : State → State} (h : FseqWord i code f) (s : State) :
    ShownFrame (s.rnode k) ((f s).rnode k) := by
  cases h with
  | idle => exact .refl _
  | drive => exact fsDrive_shown k s
  | sample => exact .of_eq (fsSample_rnode k s)
  | complete => exact .of_eq (fsComplete_rnode k s)

theorem atState_shown {reg code : Code} {a : Code → Bool} {f : State → State} (s : State)
    (hf : ShownFrame (s.rnode k) ((f s).rnode k)) :
    ShownFrame (s.rnode k) ((atState reg code a State.illegalC f s).rnode k) := by
  rcases atState_cases reg code a State.illegalC f s with ⟨_, e⟩ | ⟨_, _, e⟩ | ⟨_, _, e⟩ <;> rw [e]
  · exact hf
  · exact .refl _
  · exact .refl _

theorem FseqWord.fseqAt_shown {code : Code} {f : State → State} (h : FseqWord i code f) (s : State) :
    ShownFrame (s.rnode k) ((fseqAt code f s).rnode k) := by
  unfold fseqAt
  split
  · exact .refl _
  · exact atState_shown k s (h.shown k s)

theorem fseqStep_shown (s : State) : ShownFrame (s.rnode k) ((fseqStep s).rnode k) := by
  unfold fseqStep
  repeat' split
  · exact .refl _
  · exact .refl _
  · exact fsDrive_shown k s
  · exact .of_eq (fsSample_rnode k s)
  · exact .of_eq (fsComplete_rnode k s)
  · exact .refl _

theorem csSettling_rnode (s : State) : (csSettling s).rnode k = s.rnode k := by
  unfold csSettling
  split <;> rfl

theorem csmuxStep_rnode (s : State) : (csmuxStep s).rnode k = s.rnode k := by
  unfold csmuxStep
  repeat' split
  · rfl
  · exact csSettling_rnode k s
  · rfl

theorem PollLeaves.rnode (h : PollLeaves i s t) : t.rnode k = s.rnode k := by
  obtain ⟨c', rfl, -⟩ := h
  rfl

theorem evTickC_shown (s : State) : ShownFrame (s.rnode k) ((evTick .c s).rnode k) := by
  unfold evTick
  split
  · obtain ⟨j, h⟩ := pollStep_leaves s.beforePoll
    refine ShownFrame.trans ?_ (.of_eq (h.rnode k))
    exact (fseqStep_shown k (s.mapC CNode.endPulse)).trans (.of_eq (csmuxStep_rnode k _))
  · exact .refl _

theorem endDelay_rnode (u : DelayUnit) (s : State) : (endDelay u s).rnode k = s.rnode k := by
  cases u <;> simp only [endDelay] <;> split <;> rfl

theorem evDeliver_rnode (delay : Option DelayUnit) (s : State) : (evDeliver delay s).rnode k = s.rnode k := by
  unfold evDeliver
  split
  · rfl
  split
  · exact endDelay_rnode k _ s
  · split
    · exact endDelay_rnode k _ s
    · exact (endDelay_rnode k .poll _).trans (endDelay_rnode k .csmux s)

/-- An operation of C changes nothing of what a responder shows. -/
theorem exec_shown (h : exec i s = .next t) (hne : i ≠ .evReset) (hi : i.slot? = none ∨ i.unit = .csmux) :
    ShownFrame (s.rnode k) (t.rnode k) := by
  by_cases hu : i.unit = .poll
  · obtain ⟨code, f, hw⟩ := pollWord_of_unit hu
    cases (hw.exec s).symm.trans h
    exact .of_eq ((hw.pollAt_leaves s).rnode k)
  · cases i with
    | evReset => exact absurd rfl hne
    | fsIdle => cases h; exact FseqWord.idle.fseqAt_shown k s
    | fsDrive => cases h; exact FseqWord.drive.fseqAt_shown k s
    | fsSample => cases h; exact FseqWord.sample.fseqAt_shown k s
    | fsComplete => cases h; exact FseqWord.complete.fseqAt_shown k s
    | csStable => cases h; exact atState_shown k s (.refl _)
    | csSettling => cases h; exact atState_shown k s (.of_eq (csSettling_rnode k s))
    | csAssert j =>
      obtain ⟨c', e, -⟩ := csAssert_effect j s
      rw [(onSlot_next_iff.mp (h : onSlot j s (csAssert j) = _)).2, e]
      exact .refl _
    | csDeassert j =>
      obtain ⟨c', e, -⟩ := csDeassert_effect j s
      rw [(onSlot_next_iff.mp (h : onSlot j s (csDeassert j) = _)).2, e]
      exact .refl _
    | smpIdle =>
      cases h
      refine atState_shown k s ?_
      unfold smpIdle
      split <;> exact .refl _
    | smpIsr =>
      cases h
      rcases ofUnit_cases s.c.sState smpAssigned State.illegalC smpIsr s with ⟨_, e⟩ | ⟨_, e⟩ <;> rw [e] <;> exact .refl _
    | evAdcDone ch res => cases h; unfold evAdcDone; split <;> exact .refl _
    | evTick node =>
      cases node with
      | c => cases h; exact evTickC_shown k s
      | r j => exact absurd hi (by simp [Instr.slot?, Instr.unit])
    | evDeliver delay => cases h; exact .of_eq (evDeliver_rnode k delay s)
    | fsBufw _ | fsBufr | csRead | smpStart => cases h; exact .refl _
    | pollGuard | pollSample | pollExcl | pollSelect | pollTxdata | pollWaitdata | pollDeselect | pollSettle | pollReselect
    | pollTxsent | pollWaitreply | pollReceive | pollDisplay | pollNext | pollSkip => exact absurd rfl hu
    | _ => exact absurd hi (by simp [Instr.slot?, Instr.unit])

/-- What an operation other than a reset can change in what a responder shows. -/
theorem exec_nodeEffect (h : exec i s = .next t) (hne : i ≠ .evReset) : NodeEffect i k (s.rnode k) (t.rnode k) := by
  by_cases hi : i.slot? = none ∨ i.unit = .csmux
  · exact .of_shown (exec_shown k h hne hi)
  · obtain ⟨hslot, hcs⟩ := not_or.mp hi
    obtain ⟨j, hj⟩ := Option.ne_none_iff_exists'.mp hslot
    have hstep := exec_nodeStep h hj hcs
    rcases slot_eq_or_not j k with rfl | rfl
    · exact hstep.node
    · exact .of_shown (.of_eq hstep.other)

end shown

/-- Settles O55: the effect of an operation on C, and on each responder. -/
theorem registersHaveTheirSoleWriters : Obligations.RegistersHaveTheirSoleWriters := by
  unfold Obligations.RegistersHaveTheirSoleWriters
  intro i s t h hne
  obtain ⟨-, hreply, hled, hsamp, -⟩ := exec_coordEffect h hne
  refine ⟨hsamp, hreply, hled, fun k => ?_⟩
  obtain ⟨hcount, hshown, hduty⟩ := exec_nodeEffect k h hne
  exact ⟨hcount, hshown, hduty⟩

end Machine
end Sys2Proof
end

section
/-! Ticks as chains of words (spec/60_exceptions.md R243, spec/70_reset_and_hazards.md R265). -/

namespace Sys2Proof
namespace Machine

-- A tick of C

section words
variable {i : Instr} {code : Code} {f : State → State} (p : Payload)

theorem FseqWord.decode (h : FseqWord i code f) : decode (0b000#3 ++ code) p = some i := by
  cases h <;> rfl

theorem CsmuxWord.decode (h : CsmuxWord i code f) : decode (0b010#3 ++ code) p = some i := by
  cases h <;> rfl

theorem PollWord.decode (h : PollWord i code f) : decode (0b011#3 ++ code) p = some i := by
  cases h <;> rfl

theorem fseqWord_of_code {c : Code} (h : fsAssigned c = true) : ∃ i f, FseqWord i c f := by
  have hcodes : ∀ c : Code, fsAssigned c = true → c = FS_IDLE ∨ c = FS_DRIVE ∨ c = FS_SAMPLE ∨ c = FS_COMPLETE := by
    decide
  rcases hcodes c h with rfl | rfl | rfl | rfl
  · exact ⟨_, _, .idle⟩
  · exact ⟨_, _, .drive⟩
  · exact ⟨_, _, .sample⟩
  · exact ⟨_, _, .complete⟩

theorem csmuxWord_of_code {c : Code} (h : csAssigned c = true) : ∃ i f, CsmuxWord i c f := by
  have hcodes : ∀ c : Code, csAssigned c = true → c = CS_STABLE ∨ c = CS_SETTLING := by decide
  rcases hcodes c h with rfl | rfl
  · exact ⟨_, _, .stable⟩
  · exact ⟨_, _, .settling⟩

/-- The word of the state CSMUX is in is its step in a tick. -/
theorem CsmuxWord.exec_here (h : CsmuxWord i code f) {s : State} (hc : s.c.csState = code) :
    Machine.exec i s = .next (csmuxStep s) := by
  rw [h.exec, atState, if_pos hc, h.tick hc]

theorem PollWord.exec_here (h : PollWord i code f) {s : State} (hp : s.c.pState = code) :
    Machine.exec i s = .next (pollStep s) := by
  rw [h.exec, pollAt, atState, if_pos hp, h.tick hp]

end words

/-- Settles O47: each word is the step of its unit, since no unit's step changes the state of a later one. -/
theorem controllerTickRunsItsUnitsInOrder : Obligations.ControllerTickRunsItsUnitsInOrder := by
  unfold Obligations.ControllerTickRunsItsUnitsInOrder
  intro s p fi ci pi
  refine ⟨fun ht hfs hcs hp hfi hci hpi => ?_, fun ht => ?_⟩
  · obtain ⟨i, f, hw⟩ := fseqWord_of_code hfs
    obtain ⟨j, g, hj⟩ := csmuxWord_of_code hcs
    obtain ⟨l, e, hl⟩ := pollWord_of_code hp
    cases (hw.decode p).symm.trans hfi
    cases (hj.decode p).symm.trans hci
    cases (hl.decode p).symm.trans hpi
    refine ⟨tickC s, congrArg _ (if_pos (counting_of_tickAccurate ht)), ?_⟩
    refine runOps_cons ((hw.exec _).trans (congrArg _ (hw.tick (s := s.mapC CNode.endPulse) rfl).symm)) ?_
    refine runOps_cons (hj.exec_here (fseqPart_frame s).csState) (runOps_singleton ?_)
    exact hl.exec_here (beforePoll_coord s).pState
  · exact congrArg _ (if_neg (by simp [counting_of_timeAbstract ht]))

-- A tick of a responder

/-- What RESP owns in a responder, but for its handlers' registers: its state, the pins it last saw and the edge flag. -/
structure RespFrame (r r' : RNode) : Prop where
  rState : r'.rState = r.rState
  pinLast : r'.pinLast = r.pinLast
  edgeF : r'.edgeF = r.edgeF

theorem RespFrame.csedge (r : RNode) (csn : Bool) : RespFrame r (r.csedge csn) := by
  unfold RNode.csedge
  split
  · split <;> exact ⟨rfl, rfl, rfl⟩
  · exact ⟨rfl, rfl, rfl⟩

theorem RespFrame.trans {r r' r'' : RNode} (h : RespFrame r r') (h' : RespFrame r' r'') : RespFrame r r'' :=
  ⟨h'.1.trans h.1, h'.2.trans h.2, h'.3.trans h.3⟩

/-- ILLEGAL_STATE of RESP is set. -/
def RNode.illegal (r : RNode) : Bool := r.faultR.getLsbD 2

theorem illegal_raise_self (r : RNode) : (r.raise ILLEGAL_STATE_R).illegal = true := by
  simp [RNode.illegal, RNode.raise, ILLEGAL_STATE_R]

/-- Raising ILLEGAL_STATE keeps RESP's registers. -/
theorem RespFrame.raise (r : RNode) (b : Byte) : RespFrame r (r.raise b) := ⟨rfl, rfl, rfl⟩

/-- `R_k` between `RESP.PINDET` and RESP in its tick. -/
def State.beforeResp (s : State) (k : Slot) : State :=
  inVariant .counterDisplay k RNode.pindet (s.mapR k (·.csedge (csLine s.c.csN k)))

section respTick
variable {s : State} {k : Slot}

theorem beforeResp_rState : ((s.beforeResp k).rnode k).rState = (s.rnode k).rState := by
  have hcs : ((s.mapR k (·.csedge (csLine s.c.csN k))).rnode k).rState = (s.rnode k).rState := by
    rw [mapR_rnode_self, csedge_rState]
  unfold State.beforeResp
  rcases inVariant_cases .counterDisplay k RNode.pindet (s.mapR k (·.csedge (csLine s.c.csN k))) with
    ⟨_, _, e⟩ | ⟨_, _, e⟩ | ⟨_, e⟩ <;> rw [e]
  · rw [mapR_rnode_self]; exact hcs
  · rw [State.illegalR, State.raiseR, mapR_rnode_self]; exact hcs
  · exact hcs

theorem beforeResp_cfg : (s.beforeResp k).cfg = s.cfg := by
  unfold State.beforeResp
  rcases inVariant_cases .counterDisplay k RNode.pindet (s.mapR k (·.csedge (csLine s.c.csN k))) with
    ⟨_, _, e⟩ | ⟨_, _, e⟩ | ⟨_, e⟩ <;> rw [e]
  · rw [mapR_cfg, mapR_cfg]
  · rw [State.illegalR, State.raiseR, mapR_cfg, mapR_cfg]
  · rw [mapR_cfg]

/-- A stuck RESP is unchanged up to its own step, and a counter responder's has raised ILLEGAL_STATE by then. -/
theorem beforeResp_stuck (ha : respAssigned (s.rnode k).rState = false) :
    RespFrame (s.rnode k) ((s.beforeResp k).rnode k)
      ∧ ((s.cfg.slot k).variant = .counterDisplay → ((s.beforeResp k).rnode k).illegal = true) := by
  have hedge := RespFrame.csedge (s.rnode k) (csLine s.c.csN k)
  unfold State.beforeResp
  by_cases hv : (s.cfg.slot k).variant = .counterDisplay
  · rw [inVariant_unassigned _ (by simpa using hv) (by simpa using ha), State.illegalR, State.raiseR, mapR_rnode_self,
      mapR_rnode_self]
    exact ⟨hedge.trans (.raise _ _), fun _ => illegal_raise_self _⟩
  · rw [inVariant_other _ (by simpa using hv), mapR_rnode_self]
    exact ⟨hedge, fun h => absurd h hv⟩

theorem runOps_beforeResp (hk : s.cfg.hasSlot k = true) :
    runOps [.rsCsedge k, .respPindet k] s = .next (s.beforeResp k) := by
  refine runOps_cons (exec_rsCsedge hk) (runOps_singleton ?_)
  exact onSlot_next (inVariant .counterDisplay k RNode.pindet) (by simpa using hk)

theorem respStep_unassigned (h : respAssigned (s.rnode k).rState = false) : respStep k s = State.illegalR k s := by
  have hne {code : Code} (hc : respAssigned code = true) : (s.rnode k).rState ≠ code := fun e => by simp [e, hc] at h
  rw [respStep, if_neg (hne (code := R_IDLE) rfl), if_neg (hne (code := R_SERVICE) rfl)]

/-- The word of the state RESP is in is its step, and so is either word where RESP is stuck. -/
theorem exec_respStep {i : Instr} (hk : s.cfg.hasSlot k = true)
    (h : (i = .respIdle k ∧ (s.rnode k).rState = R_IDLE) ∨ (i = .respService k ∧ (s.rnode k).rState = R_SERVICE)
      ∨ (i = .respIdle k ∧ respAssigned (s.rnode k).rState = false)) : exec i s = .next (respStep k s) := by
  rcases h with ⟨rfl, hr⟩ | ⟨rfl, hr⟩ | ⟨rfl, hr⟩
  · rw [exec_respIdle hk hr, respStep, if_pos hr, State.mapR]
  · rw [exec_respService hk hr, respStep, if_neg (by rw [hr]; decide), if_pos hr, State.mapR]
  · rw [respStep_unassigned hr]
    exact (onSlot_next _ hk).trans (congrArg _ (atState_unassigned s hr rfl))

theorem respTick_cases : respTick k s = s.drew 1 ∨ respTick k s = (respStep k s).drew 1 := by
  unfold respTick
  cases s.nextBit
  · exact .inl rfl
  · exact .inr rfl

/-- A stuck RESP raises ILLEGAL_STATE in its tick, or is late. -/
theorem respTick_stuck (ha : respAssigned (s.rnode k).rState = false) :
    (respTick k s).rnode k = s.rnode k ∨ (respTick k s).rnode k = (s.rnode k).raise ILLEGAL_STATE_R := by
  rcases respTick_cases (s := s) (k := k) with e | e <;> rw [e]
  · exact .inl rfl
  · rw [respStep_unassigned ha, drew_rnode, State.illegalR, State.raiseR, mapR_rnode_self]
    exact .inr rfl

theorem exec_tickR (hk : s.cfg.hasSlot k = true) (ht : s.cfg.time = .tickAccurate) :
    exec (.evTick (.r k)) s = .next (respTick k (s.beforeResp k)) := by
  rw [exec, execEvTick]
  exact (onSlot_next _ hk).trans (congrArg _ (if_pos (counting_of_tickAccurate ht)))

end respTick

/-- Settles O48: a tick is the two words and then RESP's step, or none, by the draw; a stuck RESP only raises
ILLEGAL_STATE. -/
theorem responderTickRunsItsUnitsInOrder : Obligations.ResponderTickRunsItsUnitsInOrder := by
  unfold Obligations.ResponderTickRunsItsUnitsInOrder
  intro s k i hk
  have hkb : (s.beforeResp k).cfg.hasSlot k = true := by rwa [beforeResp_cfg]
  refine ⟨fun ht hi => ?_, fun ht ha => ?_, fun ht => ?_⟩
  · refine ⟨s.beforeResp k, respStep k (s.beforeResp k), runOps_beforeResp hk, exec_respStep hkb ?_, ?_⟩
    · rwa [beforeResp_rState]
    · rw [exec_tickR hk ht]
      exact respTick_cases.imp (congrArg _) (congrArg _)
  · obtain ⟨hframe, hill⟩ := beforeResp_stuck ha
    have honly : OnNode k s (respTick k (s.beforeResp k)) := tickR_onNode
    refine ⟨_, exec_tickR hk ht, honly.c, honly.other, ?_⟩
    rcases respTick_stuck (s := s.beforeResp k) (k := k) (by rwa [beforeResp_rState]) with e | e <;> rw [e]
    · exact ⟨hframe.rState, hframe.pinLast, hframe.edgeF, hill⟩
    · exact ⟨hframe.rState, hframe.pinLast, hframe.edgeF, fun _ => illegal_raise_self _⟩
  · rw [exec, execEvTick]
    exact (onSlot_next _ hk).trans (congrArg _ (if_neg (by simp [counting_of_timeAbstract ht])))

end Machine
end Sys2Proof
end

section
/-! `EV.DELIVER`, and the end of a running delay in every fair run where time is abstract
(spec/60_exceptions.md R244, spec/70_reset_and_hazards.md R265). -/

namespace Sys2Proof
namespace Machine

-- The end of a delay

section deliver
variable {s : State}

theorem exec_evDeliver_counting (delay : Option DelayUnit) (h : s.counting = true) : exec (.evDeliver delay) s = .next s :=
  congrArg _ (evDeliver_counting delay h)

theorem exec_evDeliver_some (u : DelayUnit) (h : s.counting = false) : exec (.evDeliver (some u)) s = .next (endDelay u s) :=
  congrArg _ (evDeliver_some u h)

theorem endDelay_csmux_runs (h : s.c.csState = CS_SETTLING) :
    endDelay .csmux s = s.mapC fun c => { c with settleCnt := 0#32, csState := CS_STABLE } := if_pos h

theorem endDelay_csmux_not (h : s.c.csState ≠ CS_SETTLING) : endDelay .csmux s = s := if_neg h

theorem endDelay_poll_runs (h : s.c.pState = P_GUARD) :
    endDelay .poll s = s.mapC fun c => { c with guardCnt := 0#32, pState := P_SAMPLE } := if_pos h

theorem endDelay_poll_not (h : s.c.pState ≠ P_GUARD) : endDelay .poll s = s := if_neg h

theorem exec_evDeliver_csmux (ht : s.cfg.time = .timeAbstract) (hs : s.c.csState = CS_SETTLING) :
    exec (.evDeliver (some .csmux)) s = .next (s.mapC fun c => { c with settleCnt := 0#32, csState := CS_STABLE }) := by
  rw [exec_evDeliver_some _ (counting_of_timeAbstract ht), endDelay_csmux_runs hs]

theorem exec_evDeliver_poll (ht : s.cfg.time = .timeAbstract) (hp : s.c.pState = P_GUARD) :
    exec (.evDeliver (some .poll)) s = .next (s.mapC fun c => { c with guardCnt := 0#32, pState := P_SAMPLE }) := by
  rw [exec_evDeliver_some _ (counting_of_timeAbstract ht), endDelay_poll_runs hp]

/-- The event of a unit whose delay does not run. -/
theorem exec_evDeliver_holds (u : DelayUnit) (h : s.cfg.time = .tickAccurate ∨ endDelay u s = s) :
    exec (.evDeliver (some u)) s = .next s := by
  cases hcount : s.counting with
  | true => exact exec_evDeliver_counting _ hcount
  | false =>
    rcases h with ht | e
    · simp [counting_of_tickAccurate ht] at hcount
    · rw [exec_evDeliver_some u hcount, e]

/-- Without an operand, and at most one delay running. -/
theorem exec_evDeliver_one (hcount : s.counting = false) (h : ¬(s.c.csState = CS_SETTLING ∧ s.c.pState = P_GUARD)) :
    exec (.evDeliver none) s = .next (endDelay .poll (endDelay .csmux s)) := by
  refine congrArg Host.Outcome.next ((evDeliver_none hcount).trans (if_neg ?_))
  simpa [State.bothDelaysRun] using h

/-- Without an operand, and both delays running. -/
theorem exec_evDeliver_both (hcount : s.counting = false) (hs : s.c.csState = CS_SETTLING) (hp : s.c.pState = P_GUARD) :
    exec (.evDeliver none) s = .next ((endDelay .csmux s).drew 1) ∨
      exec (.evDeliver none) s = .next ((endDelay .poll s).drew 1) := by
  have hboth : s.bothDelaysRun = true := by simp [State.bothDelaysRun, hs, hp]
  have h : exec (.evDeliver none) s = _ := congrArg Host.Outcome.next ((evDeliver_none hcount).trans (if_pos hboth))
  rw [h]
  cases s.nextBit
  · exact .inr rfl
  · exact .inl rfl

end deliver

-- Runs

section run
variable {moves : Nat → Instr} {run : Nat → State} (hrun : IsRun moves run)
include hrun

theorem IsRun.cfg_eq {n m : Nat} (h : n ≤ m) : (run m).cfg = (run n).cfg := by
  induction m, h using Nat.le_induction with
  | base => rfl
  | succ m _ ih => exact (exec_items (hrun.next m)).2.2.trans ih

/-- A delay that only its `EV.DELIVER` or a reset ends does end in a fair run. -/
theorem IsRun.delay_ends (hfair : Fair moves run) {P Q : State → Prop} {u : DelayUnit} {n : Nat} (hn : P (run n))
    (ht : (run n).cfg.time = .timeAbstract) (hP : ∀ m, n ≤ m → P (run m) → P (run (m + 1)) ∨ Q (run (m + 1)))
    (hQ : ∀ s, P s → s.cfg.time = .timeAbstract → ∃ t, exec (.evDeliver (some u)) s = .next t ∧ Q t)
    (hPQ : ∀ s, P s → ¬Q s) :
    ∃ m, n < m ∧ Q (run m) := by
  by_contra hnever
  push Not at hnever
  have howed : owedFairness (run n).cfg.time (.evDeliver (some u)) = true := by rw [ht]; rfl
  obtain ⟨m, hm, hstop⟩ := hfair.agents _ n howed
  have hstays : ∀ m, n ≤ m → P (run m) := fun m hm => by
    induction m, hm using Nat.le_induction with
    | base => exact hn
    | succ m hm ih => exact (hP m hm ih).resolve_right (hnever _ (by omega))
  obtain ⟨t, hexec, hQt⟩ := hQ (run m) (hstays m hm) ((congrArg Config.time (hrun.cfg_eq hm)).trans ht)
  rcases hstop with hnot | hmove
  · exact hnot ⟨⟨t, hexec, fun e => hPQ _ (hstays m hm) (e ▸ hQt)⟩, fun k e => nomatch e⟩
  · have hnext := hrun.next m
    rw [hmove] at hnext
    cases hexec.symm.trans hnext
    exact hnever (m + 1) (by omega) hQt

end run

/-- A settle delay runs on, or ends, whatever operation runs where time is abstract. -/
theorem exec_settling {i : Instr} {s t : State} (h : exec i s = .next t) (ht : s.cfg.time = .timeAbstract)
    (hs : s.c.csState = CS_SETTLING) : t.c.csState = CS_SETTLING ∨ t.c.csState = CS_STABLE := by
  by_cases hne : i = .evReset
  · subst hne
    cases h
    exact .inr rfl
  · rcases (exec_coordEffect h hne).line (counting_of_timeAbstract ht) with hl | ⟨he, -⟩
    · exact .inl ((hl.of_settling hs).csState.trans hs)
    · exact .inr he.after

theorem PollSuccessor.of_guard {s : State} {p q : Code} (h : PollSuccessor s p q) (hp : p = P_GUARD) : q = P_SAMPLE := by
  cases h with
  | jump h =>
    cases h with
    | guard => rfl
    | _ => exact absurd hp (by decide)
  | nextSlot _ => exact absurd hp (by decide)
  | iterate _ => exact absurd hp (by decide)

/-- The guard delay runs on, or ends, whatever operation runs. -/
theorem exec_guard {i : Instr} {s t : State} (h : exec i s = .next t) (hp : s.c.pState = P_GUARD) :
    t.c.pState = P_GUARD ∨ t.c.pState = P_SAMPLE := by
  by_cases hne : i = .evReset
  · subst hne
    cases h
    exact .inl rfl
  · by_cases hstay : t.c.pState = s.c.pState
    · exact .inl (hstay.trans hp)
    · have hpath := ((exec_coordEffect h hne).path hstay).2
      exact .inr (hpath.of_guard hp)

/-- Settles O49: the clauses by the delays that run; in a fair run the owed `EV.DELIVER` of a delay stays enabled until the
delay ends. -/
theorem deliverEndsARunningDelay : Obligations.DeliverEndsARunningDelay := by
  unfold Obligations.DeliverEndsARunningDelay
  intro s
  refine ⟨fun ht hs => ?_, fun ht hp => ?_, fun h => ?_, fun h => ?_, fun ht hs hp => ?_, fun ht hs hp => ?_,
    fun ht hs hp => ?_, fun h => ?_, fun moves run n hrun hfair hn ht => ⟨fun hs => ?_, fun hp => ?_⟩⟩
  · exact exec_evDeliver_csmux ht hs
  · exact exec_evDeliver_poll ht hp
  · exact exec_evDeliver_holds _ (h.imp id endDelay_csmux_not)
  · exact exec_evDeliver_holds _ (h.imp id endDelay_poll_not)
  · rw [exec_evDeliver_one (counting_of_timeAbstract ht) (fun h => hp h.2), endDelay_csmux_runs hs,
      endDelay_poll_not (by simpa using hp), State.mapC]
  · rw [exec_evDeliver_one (counting_of_timeAbstract ht) (fun h => hs h.1), endDelay_csmux_not hs, endDelay_poll_runs hp,
      State.mapC]
  · rcases exec_evDeliver_both (counting_of_timeAbstract ht) hs hp with e | e <;> rw [e]
    · exact .inl (by rw [endDelay_csmux_runs hs, State.mapC, State.drew])
    · exact .inr (by rw [endDelay_poll_runs hp, State.mapC, State.drew])
  · rcases h with ht | ⟨hs, hp⟩
    · exact exec_evDeliver_counting _ (counting_of_tickAccurate ht)
    · cases hcount : s.counting with
      | true => exact exec_evDeliver_counting _ hcount
      | false => rw [exec_evDeliver_one hcount (fun h => hs h.1), endDelay_csmux_not hs, endDelay_poll_not hp]
  · subst hn
    refine hrun.delay_ends hfair (P := fun s => s.c.csState = CS_SETTLING) (Q := fun s => s.c.csState = CS_STABLE)
      (u := .csmux) hs ht (fun m hm => exec_settling (hrun.next m) ?_)
      (fun s hs ht => ⟨_, exec_evDeliver_csmux ht hs, rfl⟩) fun s h h' => settling_ne_stable (h.symm.trans h')
    exact (congrArg Config.time (hrun.cfg_eq hm)).trans ht
  · subst hn
    exact hrun.delay_ends hfair (P := fun s => s.c.pState = P_GUARD) (Q := fun s => s.c.pState = P_SAMPLE)
      (u := .poll) hp ht (fun m _ => exec_guard (hrun.next m))
      (fun s hp ht => ⟨_, exec_evDeliver_poll ht hp, rfl⟩) fun s h h' => absurd (h.symm.trans h') (by decide)

end Machine
end Sys2Proof
end

section
/-! The settle delay of CSMUX and the settle guarantee of a deselected responder
(spec/41_chip_select.md R132, R137, spec/60_exceptions.md R243, R244). -/

namespace Sys2Proof
namespace Machine

-- The delay alone

theorem csmuxStep_settling {s : State} (h : s.c.csState = CS_SETTLING) : csmuxStep s = csSettling s :=
  CsmuxWord.settling.tick h

/-- The delay lasts as many ticks as are counted. -/
theorem csmuxTicks_settling {N : Nat} : ∀ {s : State}, s.cfg.time = .tickAccurate → s.c.csState = CS_SETTLING →
    s.c.settleCnt.toNat = N + 1 →
    (∀ n, n ≤ N → (csmuxTicks n s).c.csState = CS_SETTLING)
      ∧ csmuxTicks (N + 1) s = s.mapC fun c => { c with settleCnt := 0#32, csState := CS_STABLE } := by
  induction N with
  | zero =>
    intro s ht hs hcnt
    refine ⟨fun n hn => ?_, ?_⟩
    · obtain rfl := Nat.le_zero.mp hn
      exact hs
    · exact (csmuxStep_settling hs).trans (csSettling_last ht (by omega))
  | succ N ih =>
    intro s ht hs hcnt
    have hstep : csmuxStep s = s.mapC fun c => { c with settleCnt := c.settleCnt - 1#32 } :=
      (csmuxStep_settling hs).trans (csSettling_tick ht (by omega))
    have hpred := toNat_pred (x := s.c.settleCnt) (by rintro e; simp [e] at hcnt) (by decide)
    obtain ⟨hin, hend⟩ := ih (s := csmuxStep s) (by rw [hstep]; exact ht) (by rw [hstep]; exact hs)
      (by simp only [hstep, mapC_c]; omega)
    refine ⟨fun n hn => ?_, ?_⟩
    · cases n with
      | zero => exact hs
      | succ n => exact hin n (by omega)
    · rw [csmuxTicks, hend, hstep]
      rfl

-- A tick of C while a settle delay runs, and as one starts

section tick
variable {s : State} {k : Slot}

theorem csmuxStep_csN (s : State) : (csmuxStep s).c.csN = s.c.csN := by
  unfold csmuxStep
  repeat' split
  · rfl
  · unfold csSettling
    split
    · rw [mapC_c]; split <;> rfl
    · rfl
  · rfl

theorem beforePoll_csN (s : State) : s.beforePoll.c.csN = s.c.csN :=
  (csmuxStep_csN _).trans (fseqPart_frame s).csN

/-- In a tick POLL takes the one step of the lines. -/
theorem tickC_line (s : State) : LineStep s.cfg s.beforePoll.c (tickC s).c := by
  obtain ⟨j, c', e, heff⟩ := pollStep_leaves s.beforePoll
  have hline := heff.line
  rw [beforePoll_cfg] at hline
  rwa [show tickC s = pollStep s.beforePoll from rfl, e]

/-- A tick of C in which a line goes high starts the settle delay with its full count. -/
theorem tickC_deselects (h : Deselects k s (tickC s)) :
    (tickC s).c.csState = CS_SETTLING ∧ (tickC s).c.settleCnt = BitVec.ofNat 32 s.cfg.settleTicks :=
  (tickC_line s).settles (beforePoll_csN s ▸ h.1) h.2

/-- A tick of C inside a settle delay counts one tick and leaves the lines. -/
theorem tickC_settling (ht : s.cfg.time = .tickAccurate) (hs : s.c.csState = CS_SETTLING)
    (hcnt : 1 < s.c.settleCnt.toNat) :
    (tickC s).c.csN = s.c.csN ∧ (tickC s).c.csState = CS_SETTLING ∧ (tickC s).c.settleCnt = s.c.settleCnt - 1#32 := by
  obtain ⟨-, hst, hcount⟩ := (fseqPart_frame s).toLineFrame
  have hb : s.beforePoll =
      (fseqStep (s.mapC CNode.endPulse)).mapC fun c => { c with settleCnt := c.settleCnt - 1#32 } := by
    refine (csmuxStep_settling (hst.trans hs)).trans (csSettling_tick ?_ (by rwa [hcount]))
    exact (congrArg Config.time (fseqStep_moves _).cfg_eq).trans ht
  have hsb : s.beforePoll.c.csState = CS_SETTLING := by rw [hb]; exact hst.trans hs
  obtain ⟨hn, hs', hc⟩ := (tickC_line s).of_settling hsb
  refine ⟨hn.trans (beforePoll_csN s), hs'.trans hsb, hc.trans ?_⟩
  rw [hb, mapC_c, hcount]

theorem exec_tickC (ht : s.cfg.time = .tickAccurate) : exec (.evTick .c) s = .next (tickC s) :=
  congrArg Host.Outcome.next (if_pos (counting_of_tickAccurate ht))

/-- In a tick model only a tick of C, or a reset, moves the lines. -/
theorem exec_line_frame {i : Instr} {t : State} (h : exec i s = .next t) (ht : s.cfg.time = .tickAccurate)
    (hm : isMove .tickAccurate i = true) (hne : i ≠ .evReset) (hnt : i ≠ .evTick .c) : LineFrame s.c t.c := by
  cases hslot : i.slot? with
  | some j =>
    have hcs : i.unit ≠ .csmux := by
      cases i with
      | csAssert _ | csDeassert _ => simp [isMove, Instr.kind] at hm
      | csStable | csSettling | csRead => cases hslot
      | _ => simp [Instr.unit]
    rw [(exec_nodeStep h hslot hcs).c]
    exact .refl _
  | none =>
    cases i with
    | smpIdle =>
      cases h
      rcases atState_cases s.c.sState S_IDLE smpAssigned State.illegalC smpIdle s with ⟨_, e⟩ | ⟨_, _, e⟩ | ⟨_, _, e⟩ <;>
        rw [e]
      · unfold smpIdle
        split <;> exact ⟨rfl, rfl, rfl⟩
      · exact .refl _
      · exact ⟨rfl, rfl, rfl⟩
    | evReset => exact absurd rfl hne
    | evPin _ _ _ => cases hslot
    | evAdcDone ch res =>
      cases h
      unfold evAdcDone
      split <;> exact ⟨rfl, rfl, rfl⟩
    | evTick node =>
      cases node with
      | c => exact absurd rfl hnt
      | r j => cases hslot
    | evDeliver delay =>
      rw [exec_evDeliver_counting delay (counting_of_tickAccurate ht)] at h
      cases h
      exact .refl _
    | _ => simp [isMove, Instr.kind] at hm

end tick

-- The settle guarantee in a tick model

theorem movesIn_succ (moves : Nat → Instr) (i : Instr) (n d : Nat) :
    movesIn moves i n (d + 1) = movesIn moves i n d + if moves (n + d) = i then 1 else 0 := rfl

/-- A move that is counted in a stretch is made in it. -/
theorem exists_move_of_movesIn_pos {moves : Nat → Instr} {i : Instr} {n d : Nat} (h : 0 < movesIn moves i n d) :
    ∃ j, n ≤ j ∧ j < n + d ∧ moves j = i := by
  induction d with
  | zero => exact absurd h (Nat.lt_irrefl 0)
  | succ d ih =>
    by_cases hm : moves (n + d) = i
    · exact ⟨n + d, by omega, by omega, hm⟩
    · rw [movesIn_succ, if_neg hm] at h
      obtain ⟨j, hj, hlt, e⟩ := ih h
      exact ⟨j, hj, by omega, e⟩

/-- `count` ticks of the settle delay that a deselect started are left, and the lines are as `csN` says. -/
structure Settling (csN : BitVec 2) (count : Nat) (c : CNode) : Prop where
  csN_eq : c.csN = csN
  state : c.csState = CS_SETTLING
  count_eq : c.settleCnt.toNat = count

section guarantee
variable {moves : Nat → Instr} {run : Nat → State} (hrun : IsRun moves run) {k : Slot} {n m : Nat}
  (hok : (run n).cfg.ok = true) (hnm : n < m) (hdes : Deselects k (run n) (run (n + 1)))
  (hlow : csLine (run m).c.csN k = false) (hreset : ∀ j, n ≤ j → j < m → moves j ≠ .evReset)
include hrun hnm hdes hreset

section ticks
variable (ht : (run n).cfg.time = .tickAccurate)
include hok ht

/-- The deselect starts the delay with its full count. -/
theorem IsRun.tick_starts : Settling (run (n + 1)).c.csN (run n).cfg.settleTicks (run (n + 1)).c := by
  have hfits : (run n).cfg.settleTicks < 2 ^ 32 := by
    have h := (config_ok_iff.mp hok).2 ht
    simp only [Config.fits, Bool.and_eq_true, decide_eq_true_eq] at h
    exact h.1.2
  have hnext := hrun.next n
  by_cases htick : moves n = .evTick .c
  · rw [htick, exec_tickC ht] at hnext
    have hrun' : run (n + 1) = tickC (run n) := (Host.Outcome.next.inj hnext).symm
    obtain ⟨hs, hcnt⟩ := tickC_deselects (hrun' ▸ hdes)
    rw [hrun']
    exact ⟨rfl, hs, by rw [hcnt, BitVec.toNat_ofNat, Nat.mod_eq_of_lt hfits]⟩
  · have hline := exec_line_frame hnext ht (ht ▸ (hrun.move n).1) (hreset n le_rfl hnm) htick
    have hhigh := hdes.2
    rw [hline.csN, hdes.1] at hhigh
    cases hhigh

/-- As long as fewer ticks of C than the delay counts have been taken, the delay runs and the lines stay. -/
theorem IsRun.tick_settles {d : Nat} (hd : n + 1 + d ≤ m)
    (hcnt : movesIn moves (.evTick .c) (n + 1) d < (run n).cfg.settleTicks) :
    Settling (run (n + 1)).c.csN ((run n).cfg.settleTicks - movesIn moves (.evTick .c) (n + 1) d)
      (run (n + 1 + d)).c := by
  induction d with
  | zero => exact hrun.tick_starts hok hnm hdes hreset ht
  | succ d ih =>
    have hnext := hrun.next (n + 1 + d)
    have htime : (run (n + 1 + d)).cfg.time = .tickAccurate :=
      (congrArg Config.time (hrun.cfg_eq (by omega))).trans ht
    rw [movesIn_succ] at hcnt ⊢
    obtain ⟨hn, hs, hc⟩ := ih (by omega) (by omega)
    by_cases htick : moves (n + 1 + d) = .evTick .c
    · rw [if_pos htick] at hcnt ⊢
      rw [htick, exec_tickC htime] at hnext
      obtain ⟨hn', hs', hc'⟩ := tickC_settling htime hs (by omega)
      have hrun' : run (n + 1 + (d + 1)) = tickC (run (n + 1 + d)) := (Host.Outcome.next.inj hnext).symm
      have hpred := toNat_pred (x := (run (n + 1 + d)).c.settleCnt) (by rintro e; simp [e] at hc; omega) (by decide)
      rw [hrun']
      exact ⟨hn'.trans hn, hs', by rw [hc']; omega⟩
    · rw [if_neg htick]
      obtain ⟨hn', hs', hc'⟩ :=
        exec_line_frame hnext htime (htime ▸ (hrun.move _).1) (hreset _ (by omega) (by omega)) htick
      exact ⟨hn'.trans hn, hs'.trans hs, (congrArg BitVec.toNat hc').trans hc⟩

include hlow

/-- The line is high again for at least the ticks of the delay. -/
theorem IsRun.settleTicks_le : (run n).cfg.settleTicks ≤ movesIn moves (.evTick .c) (n + 1) (m - (n + 1)) := by
  by_contra hlt
  have h := hrun.tick_settles hok hnm hdes hreset ht (d := m - (n + 1)) (by omega) (by omega)
  rw [show n + 1 + (m - (n + 1)) = m by omega] at h
  have hhigh := hdes.2
  rw [← h.csN_eq, hlow] at hhigh
  cases hhigh

/-- With equal clocks a tick of `R_k` falls within the delay. -/
theorem IsRun.exists_tickR (hclk : EqualClocks k moves) : ∃ j, n < j ∧ j < m ∧ moves j = .evTick (.r k) := by
  obtain ⟨-, hhalf, hsettle, -⟩ := config_valid_iff.mp (config_ok_iff.mp hok).1
  have hticks := hrun.settleTicks_le hok hnm hdes hlow hreset ht
  have hpos : 0 < movesIn moves (.evTick (.r k)) (n + 1) (m - (n + 1)) := by
    have := (hclk (n + 1) (m - (n + 1))).1
    omega
  obtain ⟨j, hj, hlt, hmove⟩ := exists_move_of_movesIn_pos hpos
  exact ⟨j, by omega, by omega, hmove⟩

end ticks

-- The settle guarantee where time is abstract

section timeAbstract
variable (ht : (run n).cfg.time = .timeAbstract)
include ht

omit hnm hdes in
theorem IsRun.line_abstract {j : Nat} (hj : n ≤ j) (hjm : j < m) :
    LineStep (run j).cfg (run j).c (run (j + 1)).c
      ∨ (SettleEnd (run j).c (run (j + 1)).c ∧ ∃ delay, moves j = .evDeliver delay) :=
  (exec_coordEffect (hrun.next j) (hreset j hj hjm)).line
    (counting_of_timeAbstract ((congrArg Config.time (hrun.cfg_eq hj)).trans ht))

theorem IsRun.abstract_starts : (run (n + 1)).c.csState = CS_SETTLING := by
  rcases hrun.line_abstract hreset ht le_rfl hnm with hl | ⟨he, -⟩
  · exact (hl.settles hdes.1 hdes.2).1
  · have hhigh := hdes.2
    rw [he.csN, hdes.1] at hhigh
    cases hhigh

/-- The delay runs on with the lines as they are, or an `EV.DELIVER` has ended it. -/
theorem IsRun.settles_or_ends {j : Nat} (hj : n + 1 ≤ j) (hjm : j ≤ m) :
    ((∀ l, n < l → l ≤ j → (run l).c.csState = CS_SETTLING) ∧ (run j).c.csN = (run (n + 1)).c.csN)
      ∨ ∃ e, n < e ∧ e < j ∧ SettleEndsAt moves run n e := by
  induction j, hj using Nat.le_induction with
  | base =>
    refine .inl ⟨fun l hl hle => ?_, rfl⟩
    obtain rfl : l = n + 1 := by omega
    exact hrun.abstract_starts hnm hdes hreset ht
  | succ j hj ih =>
    rcases ih (by omega) with ⟨hall, hn⟩ | ⟨e, hne, hej, hend⟩
    · have hs := hall j (by omega) le_rfl
      rcases hrun.line_abstract hreset ht (j := j) (by omega) (by omega) with hl | ⟨he, hd⟩
      · have hframe := hl.of_settling hs
        refine .inl ⟨fun l hl hle => ?_, hframe.csN.trans hn⟩
        rcases Nat.le_succ_iff.mp hle with hle | rfl
        · exact hall l hl hle
        · exact hframe.csState.trans hs
      · exact .inr ⟨j, by omega, by omega, by omega, hall, he.after, hd⟩
    · exact .inr ⟨e, hne, by omega, hend⟩

include hlow

/-- The delay has ended before the line is low again. -/
theorem IsRun.exists_settleEnd : ∃ e, n < e ∧ e < m ∧ SettleEndsAt moves run n e := by
  refine (hrun.settles_or_ends hnm hdes hreset ht hnm le_rfl).resolve_left fun h => ?_
  have hhigh := hdes.2
  rw [← h.2, hlow] at hhigh
  cases hhigh

end timeAbstract

end guarantee

-- What a responder has seen

theorem csedge_high_csSeen (r : RNode) : (r.csedge true).csSeen = true := by
  unfold RNode.csedge
  split <;> rfl

theorem complete_csSeen (r : RNode) : r.complete.csSeen = r.csSeen := by
  unfold RNode.complete
  split <;> rfl

/-- A responder's own moves keep `CS_SEEN` while its line is high. -/
theorem RMove.csSeen {cfg : Config} {sc : SlotConfig} {r r' : RNode} (h : RMove cfg sc true r r') (hs : r.csSeen = true) :
    r'.csSeen = true := by
  cases h with
  | shift b =>
    rcases shift_cases r b with ⟨_, e⟩ | ⟨_, e⟩ <;> rw [e]
    · exact (complete_csSeen _).trans hs
    · exact hs
  | complete => exact (complete_csSeen r).trans hs
  | csedge => exact csedge_high_csSeen r
  | bufw v => rcases rbufw_cases r v with ⟨_, e⟩ | ⟨_, e⟩ <;> rw [e] <;> exact hs
  | setPin p l => cases p <;> exact hs
  | _ => exact hs

theorem RMoves.csSeen {cfg : Config} {sc : SlotConfig} {r r' : RNode} (h : RMoves cfg sc true r r')
    (hs : r.csSeen = true) : r'.csSeen = true := by
  induction h with
  | refl => exact hs
  | tail _ m ih => exact m.csSeen ih

section tickR
variable {s : State} {k : Slot}

theorem respStep_csSeen (h : (s.rnode k).csSeen = true) : ((respStep k s).rnode k).csSeen = true := by
  unfold respStep
  split
  next hr => rw [mapR_rnode_self]; exact RMoves.csSeen (idle_moves s.cfg (s.cfg.slot k) true _ _ hr) h
  next =>
    split
    next hr => rw [mapR_rnode_self]; exact RMoves.csSeen (service_moves s.cfg (s.cfg.slot k) true _ hr) h
    next => rw [State.illegalR, State.raiseR, mapR_rnode_self]; exact h

theorem beforeResp_csSeen (h : csLine s.c.csN k = true) : ((s.beforeResp k).rnode k).csSeen = true := by
  have hedge : ((s.mapR k (·.csedge (csLine s.c.csN k))).rnode k).csSeen = true := by
    rw [mapR_rnode_self, h]
    exact csedge_high_csSeen _
  unfold State.beforeResp
  rcases inVariant_cases .counterDisplay k RNode.pindet (s.mapR k (·.csedge (csLine s.c.csN k))) with
    ⟨_, _, e⟩ | ⟨_, _, e⟩ | ⟨_, e⟩ <;> rw [e]
  · rw [mapR_rnode_self]; exact hedge
  · rw [State.illegalR, State.raiseR, mapR_rnode_self]; exact hedge
  · exact hedge

/-- A tick of a responder whose line is high sees it high. -/
theorem tickR_csSeen (h : csLine s.c.csN k = true) : ((respTick k (s.beforeResp k)).rnode k).csSeen = true := by
  have hb := beforeResp_csSeen h
  rcases respTick_cases (s := s.beforeResp k) (k := k) with e | e <;> rw [e, drew_rnode]
  · exact hb
  · exact respStep_csSeen hb

end tickR

/-- Settles O21: the delay by its count, the guarantee by the run after the deselect. -/
theorem settleDelayLastsItsTicks : Obligations.SettleDelayLastsItsTicks := by
  unfold Obligations.SettleDelayLastsItsTicks
  refine ⟨fun s ht hs hcnt => ?_, fun moves run k n m hrun hok hnm hdes hhigh hlow hreset => ⟨fun ht => ⟨?_, fun hclk => ?_⟩,
    fun ht hseen => ?_⟩⟩
  · obtain ⟨hin, hend⟩ := csmuxTicks_settling (N := s.c.settleCnt.toNat - 1) ht hs (by omega)
    refine ⟨fun n hn => hin n (by omega), ?_⟩
    rw [Nat.sub_add_cancel hcnt] at hend
    exact hend
  · exact hrun.settleTicks_le hok hnm hdes hlow hreset ht
  · obtain ⟨j, hnj, hjm, hmove⟩ := hrun.exists_tickR hok hnm hdes hlow hreset ht hclk
    have hline := hhigh j hnj hjm
    have hnext := hrun.next j
    have hk : (run j).cfg.hasSlot k = true := by
      have h := (hrun.move j).2
      rwa [hmove] at h
    rw [hmove, exec_tickR hk ((congrArg Config.time (hrun.cfg_eq hnj.le)).trans ht)] at hnext
    refine ⟨j, hnj, hjm, hmove, hline, ?_⟩
    rw [← Host.Outcome.next.inj hnext]
    exact tickR_csSeen hline
  · obtain ⟨e, -, hem, hend⟩ := hrun.exists_settleEnd hnm hdes hlow hreset ht
    obtain ⟨j, hnj, hje, hsees⟩ := hseen n e hdes hend
    obtain ⟨hmove, hline, hunseen⟩ := hsees
    have hnext := hrun.next j
    have hk : (run j).cfg.hasSlot k = true := by
      have h := (hrun.move j).2
      rwa [hmove] at h
    rw [hmove, exec_rsCsedge hk, hline, csedge_deselect hunseen] at hnext
    refine ⟨j, hnj, by omega, ⟨hmove, hline, hunseen⟩, ?_⟩
    rw [← Host.Outcome.next.inj hnext, setRnode_rnode_self]
    exact ⟨rfl, rfl⟩

end Machine
end Sys2Proof
end
